-- ==== Sys2Proof/Word.lean ====
section
/-! DEFINITION. The word types of the 2496: bytes, 16-bit fields, time-base values, and the numbers of slots, zones and lines. -/

namespace Sys2Proof

/-- A byte of the station link, or the value of a probe-line character. -/
abbrev Byte := BitVec 8

/-- A character of the station link after its start bit, as its levels stood on the wire, 1 high: bits 0 to 7 are the data bits in
the order they came, bit 8 is the stop bit (R168). -/
abbrev LinkCharacter := BitVec 9

/-- A 16-bit field: an expected length, a check, an element of a bank. -/
abbrev Word16 := BitVec 16

/-- A value of the time base: a count of 0.1 s ticks that wraps at 2^32 (R181). -/
abbrev Time := BitVec 32

/-- A probe slot, 0 to 95 (00, Numbering). -/
abbrev SlotId := Fin 96

/-- A zone, Z0 to Z23 (00, Numbering). -/
abbrev ZoneId := Fin 24

/-- A probe line, 0 to 3 (00, Numbering). -/
abbrev LineId := Fin 4

/-- Every slot, zone and line in ascending order. -/
abbrev allSlots : List SlotId := List.finRange 96
abbrev allZones : List ZoneId := List.finRange 24
abbrev allLines : List LineId := List.finRange 4

end Sys2Proof
end

