-- ==== Sys2Proof/Syntax.lean ====
section
/-! DEFINITION. The commands of the block: one constructor of Instr per row of spec/opcode_table.json, with its operands. -/

namespace Sys2Proof

/-- The 24 operations of the request catalogue (10.4). Their codes stand in Sys2Proof/Decode.lean (R185). -/
inductive Op where
  | identify | readStatus | paramSet | paramGet | restart
  | lineSetup | lineStop
  | probeEnrol | probeWithdraw | probeHold | probeRelease | readProbes | heatProbe
  | zoneDefine | zoneClose | readZones
  | tableBegin | tableLoad | tableCommit | tableSelect | tableRead
  | fetchNotices | routeSet | clearAlert
deriving DecidableEq, Repr

/-- How a received frame is damaged (R169). -/
inductive FrameDamage where
  /-- The two CRC bytes, read low byte first, are `crc`; they differ from the CRC-16 of kind, tag, length and body. -/
  | badCrc (kind tag : Byte) (body : List Byte) (crc : Word16)
  /-- The length byte is above 64. -/
  | oversizeLength (length : Byte)
  /-- A character with a framing error is received; it damages the frame that the receiver is assembling, if there is one. -/
  | framingError
deriving DecidableEq, Repr

/-- A command of the block: a row of the table with its operands.
A request row carries the frame's tag, the expected length E and the parameter bytes that follow E in the body (R185):
it stands for the good REQUEST frame with that body, at the moment the frame ends.
A line row carries the probe line, a zone or slot row the zone or the slot. -/
inductive Instr where
  -- requests (10.4)
  | identify      (tag : Byte) (e : Word16) (params : List Byte)
  | readStatus    (tag : Byte) (e : Word16) (params : List Byte)
  | paramSet      (tag : Byte) (e : Word16) (params : List Byte)
  | paramGet      (tag : Byte) (e : Word16) (params : List Byte)
  | restart       (tag : Byte) (e : Word16) (params : List Byte)
  | lineSetup     (tag : Byte) (e : Word16) (params : List Byte)
  | lineStop      (tag : Byte) (e : Word16) (params : List Byte)
  | probeEnrol    (tag : Byte) (e : Word16) (params : List Byte)
  | probeWithdraw (tag : Byte) (e : Word16) (params : List Byte)
  | probeHold     (tag : Byte) (e : Word16) (params : List Byte)
  | probeRelease  (tag : Byte) (e : Word16) (params : List Byte)
  | readProbes    (tag : Byte) (e : Word16) (params : List Byte)
  | heatProbe     (tag : Byte) (e : Word16) (params : List Byte)
  | zoneDefine    (tag : Byte) (e : Word16) (params : List Byte)
  | zoneClose     (tag : Byte) (e : Word16) (params : List Byte)
  | readZones     (tag : Byte) (e : Word16) (params : List Byte)
  | tableBegin    (tag : Byte) (e : Word16) (params : List Byte)
  | tableLoad     (tag : Byte) (e : Word16) (params : List Byte)
  | tableCommit   (tag : Byte) (e : Word16) (params : List Byte)
  | tableSelect   (tag : Byte) (e : Word16) (params : List Byte)
  | tableRead     (tag : Byte) (e : Word16) (params : List Byte)
  | fetchNotices  (tag : Byte) (e : Word16) (params : List Byte)
  | routeSet      (tag : Byte) (e : Word16) (params : List Byte)
  | clearAlert    (tag : Byte) (e : Word16) (params : List Byte)
  -- frames, bytes and transmissions of the station link
  /-- A good REQUEST frame whose body is shorter than three bytes or whose operation is unknown (R172). -/
  | badOpRequest (tag : Byte) (body : List Byte)
  /-- A good DATA frame ends (R171, R173). -/
  | dataFrame (tag : Byte) (body : List Byte)
  /-- A damaged frame is found damaged (R169, R171). -/
  | damagedFrame (damage : FrameDamage)
  /-- A frame with a good CRC that R171 discards ends: a foreign kind, a RESULT, or a DATA frame outside RECEIVING. -/
  | frameDiscarded (kind tag : Byte) (body : List Byte)
  /-- More than 20 ms pass inside a frame (R169). -/
  | frameGapTimeout
  /-- 500 ms pass with no byte received in RECEIVING (R173). -/
  | silenceTimeout
  /-- A good REQUEST frame ends in RECEIVING (R173). -/
  | requestAbandonsReceiving (tag : Byte) (body : List Byte)
  /-- A good REQUEST frame ends in SENDING (R174). -/
  | requestAbandonsSending (tag : Byte) (body : List Byte)
  /-- A good REQUEST frame ends while a result is in transmission (R175). -/
  | waitingRequest (tag : Byte) (body : List Byte)
  /-- The data frame in transmission has been completely transmitted (R174). -/
  | dataFrameTransmitted
  /-- The result frame in transmission has been completely transmitted (R175). -/
  | resultFrameTransmitted
  -- reset and time
  /-- Power-on, or the RESET pin held active and released, with the levels of RATE1 and RATE0 as the reset ends (true = high) (R168). -/
  | hardwareReset (rate1 rate0 : Bool)
  /-- The time base counts one tick (R181). -/
  | timeBaseTick
  /-- The time base reaches a zone's timer expiry (R20). -/
  | zoneTimerExpiry (zone : ZoneId)
  /-- The evaluation in progress completes (R40, R41). -/
  | evaluationCompletion
  /-- The time base reaches a schedulable slot's next-due time (R143). -/
  | slotDue (slot : SlotId)
  -- probe lines
  /-- The engine of an IDLE line chooses a slot and begins its poll (R128, R145). -/
  | pollStart (line : LineId)
  /-- The last stop bit of the poll ends (R128, R129). -/
  | pollSent (line : LineId)
  /-- PLn-D goes to the active level (R136). -/
  | lineLeavesIdleLevel (line : LineId)
  /-- PLn-D returns to the idle level (R136). -/
  | lineReturnsToIdleLevel (line : LineId)
  /-- The reply timeout expires (R129). -/
  | replyTimeout (line : LineId)
  /-- The stop bit of a well-formed character ends. `bits` are its nine data bits as they stood on the line:
  bit 0 of `bits` came first (R123). -/
  | replyCharacter (line : LineId) (bits : BitVec 9)
  /-- The stop bit of a character is found at the active level (R131). -/
  | replyFramingError (line : LineId)
  /-- 3 character times run out after a reply character (R130). -/
  | replyGapTimeout (line : LineId)
  /-- The stop bit of the check character ends; `bits` as in `replyCharacter` (R132). -/
  | replyComplete (line : LineId) (bits : BitVec 9)
  /-- The line has been quiet for 3 character times in DISCARDING (R130). -/
  | discardingEnd (line : LineId)
  /-- The turnaround ends (R133). -/
  | turnaroundEnd (line : LineId)
  /-- An active stretch exceeds the fault time (R137). -/
  | lineFaultEntry (line : LineId)
  /-- A rest stretch reaches the fault time (R139). -/
  | lineRecovery (line : LineId)
  /-- The time base reaches a HEATING slot's heat-end time (R89). -/
  | heatEnd (slot : SlotId)
  /-- Characters arrive on SL-RXD in this order (R168, R169): while the receiver hunts, a lead byte 0xC3 opens a partial frame; while
  it holds one, the characters go on with it. -/
  | leadByte (characters : List LinkCharacter)
deriving DecidableEq, Repr

end Sys2Proof
end

