-- ==== Sys2Proof/Decode.lean ====
section
/-! DEFINITION. What words spell: the operation codes of a REQUEST body (R185), and the command that an opcode-table word spells (no row of this block's table gives bits). -/

namespace Sys2Proof

/-- The operation code of a request (R185). -/
def Op.code : Op → Byte
  | .identify => 0x01
  | .readStatus => 0x02
  | .paramSet => 0x03
  | .paramGet => 0x04
  | .restart => 0x05
  | .lineSetup => 0x10
  | .lineStop => 0x11
  | .probeEnrol => 0x20
  | .probeWithdraw => 0x21
  | .probeHold => 0x22
  | .probeRelease => 0x23
  | .readProbes => 0x24
  | .heatProbe => 0x28
  | .zoneDefine => 0x30
  | .zoneClose => 0x31
  | .readZones => 0x32
  | .tableBegin => 0x40
  | .tableLoad => 0x41
  | .tableCommit => 0x42
  | .tableSelect => 0x43
  | .tableRead => 0x44
  | .fetchNotices => 0x50
  | .routeSet => 0x51
  | .clearAlert => 0x52

/-- The 24 operations. -/
def allOps : List Op :=
  [.identify, .readStatus, .paramSet, .paramGet, .restart, .lineSetup, .lineStop,
   .probeEnrol, .probeWithdraw, .probeHold, .probeRelease, .readProbes, .heatProbe,
   .zoneDefine, .zoneClose, .readZones,
   .tableBegin, .tableLoad, .tableCommit, .tableSelect, .tableRead,
   .fetchNotices, .routeSet, .clearAlert]

/-- The operation whose code a byte is, if there is one (R172 check 1). -/
def Op.ofCode (b : Byte) : Option Op := allOps.find? fun o => o.code == b

/-- The body of a REQUEST frame: operation, E low byte first, parameters (R183, R185). -/
def requestBody (op : Op) (e : Word16) (params : List Byte) : List Byte :=
  op.code :: e.setWidth 8 :: (e >>> 8).setWidth 8 :: params

/-- The command that a word of the opcode table spells. No row of this block's table gives bits (98_reader.md:
n_rows_with_fixed 0, n_rows_with_fields 0), so no word spells one. -/
def decodeTableWord (_nbits _w : Nat) : Option Instr := none

end Sys2Proof
end

