-- ==== Sys2Proof/Config.lean ====
section
/-! DEFINITION. The free values of the model: what the manual leaves open and the part nevertheless settles. Neither has a body, so no proof can see a value of it. -/

namespace Sys2Proof.Config

/-- FREE VALUE (log 9). Where several slots receive LINE_FAULT misses in one event, "misses for different slots of the line
need no order among themselves" (R138): the place at which one of them enters the order, from the count of
free values drawn so far and the number of slots already placed. -/
opaque freePosition : Nat → Nat → Nat

/-- FREE VALUE (log 10). Where a ZONE-DEFINE recomputes a member whose line is in FAULT, whether that recomputation and
its miss come before the evaluation that the same request starts (R9 and R10 give no order). -/
opaque freeRecomputeFirst : Nat → Bool

end Sys2Proof.Config
end

