-- ==== Sys2Proof/Machine/State.lean ====
section
/-! DEFINITION. The state of the 2496 as plain data: every register, list, counter, mark and pin level the manual gives it, the queue of waiting commands, and the state after reset. -/

namespace Sys2Proof.Machine

/-! ### Parameters (R177) -/

/-- QUEUE_POLICY (R157). -/
inductive QueuePolicy where
  | keepOldest | keepNewest
deriving DecidableEq, Repr

/-- The thirteen global parameters (R177). -/
structure Params where
  freshLimit : Nat
  pollFast : Nat
  pollSettled : Nat
  evalFast : Nat
  evalSettled : Nat
  missLimit : Nat
  stepLimit : Nat
  satLimit : Nat
  satCount : Nat
  heatTime : Nat
  recoveryTime : Nat
  /-- QUEUE_WATERMARK -/
  watermark : Nat
  /-- QUEUE_POLICY -/
  policy : QueuePolicy
deriving DecidableEq, Repr

/-! ### Saturation tables (R50 to R56) -/

/-- The three banks (R50). -/
inductive BankId where
  | rom | a | b
deriving DecidableEq, Repr

/-- The bank states (R52). ROM takes the last three only (R51). -/
inductive BankState where
  | empty | loading | loaded | pending | active | standby
deriving DecidableEq, Repr

/-- One entry of a bank: temperature point in 0.01 °C, saturation pressure in Pa (R50). -/
structure Entry where
  temp : Int
  pressure : Nat
deriving DecidableEq, Repr

/-- What a loadable bank holds in every state but EMPTY (R50). The complete-entry count is the number of `entries`. -/
structure BankContents where
  /-- The declared count n. -/
  declared : Nat
  /-- The complete entries, entry 0 first. -/
  entries : List Entry
  /-- The temperature of the partial entry, while the cursor's position is PRESSURE. -/
  partialTemp : Option Int
  /-- First-half check. -/
  check1 : Word16
  /-- Second-half check. -/
  check2 : Word16
deriving DecidableEq, Repr

/-- A loadable bank: its state and, in every state but EMPTY, its contents (R50). -/
structure Bank where
  state : BankState
  contents : Option BankContents
deriving DecidableEq, Repr

/-- Element position of the load cursor (R56). -/
inductive ElementPosition where
  | temperature | pressure
deriving DecidableEq, Repr

/-- The load cursor: bank, entry index, element position (section 3.3). -/
structure LoadCursor where
  bank : BankId
  entry : Nat
  position : ElementPosition
deriving DecidableEq, Repr

/-- The saturation table unit: the state of ROM, banks A and B, the load cursor. -/
structure Tables where
  rom : BankState
  a : Bank
  b : Bank
  cursor : Option LoadCursor
deriving DecidableEq, Repr

/-! ### Zones and evaluation (R1 to R6, R18, R26) -/

/-- The risk levels CLEAR < WATCH < ALERT < DEW (00, Risk order). -/
inductive Level where
  | clear | watch | alert | dew
deriving DecidableEq, Repr

/-- The state of a defined zone: BLIND or a level state (R1). IDLE is the absence of the record (log 15). -/
inductive ZoneState where
  | blind
  | level (l : Level)
deriving DecidableEq, Repr

/-- A zone's definition (R2, R3). -/
structure ZoneDef where
  /-- Watch threshold W. -/
  watch : Nat
  /-- Alert threshold A. -/
  alert : Nat
  /-- Hysteresis H. -/
  hyst : Nat
  /-- Entry count Nin. -/
  nin : Nat
  /-- Quiet count Nout. -/
  nout : Nat
  /-- Air member list, in the order the host gave it. -/
  air : List SlotId
  /-- Surface member list, in the order the host gave it. -/
  surface : List SlotId
deriving DecidableEq, Repr

/-- The values of an evaluation whose outcome was not BLIND (R5, R31). -/
structure Values where
  dewPoint : Int
  coldest : Int
  margin : Int
  airSlot : SlotId
  surfaceSlot : SlotId
deriving DecidableEq, Repr

/-- The latest evaluation of a zone (R5). -/
structure Latest where
  stamp : Time
  bank : BankId
  rangeMark : Bool
  values : Option Values
deriving DecidableEq, Repr

/-- The record of a defined zone (section 1.1). -/
structure Zone where
  state : ZoneState
  defn : ZoneDef
  riseCount : Nat
  /-- Floor level, while the rise count is non-zero (R5). -/
  floor : Option Level
  fallCount : Nat
  /-- Ceiling level, while the fall count is non-zero (R5). -/
  ceiling : Option Level
  latest : Option Latest
  /-- Timer expiry, while the zone's timer runs (R6). -/
  expiry : Option Time
  dueMark : Bool
deriving DecidableEq, Repr

/-- A contributor's values in a snapshot: temperature and, for an air member, humidity (R26). -/
structure Sample where
  temp : Int
  rh : Option Nat
deriving DecidableEq, Repr

/-- One entry of a snapshot: the member, and its sample if it is a contributor (R26). -/
structure SnapEntry where
  slot : SlotId
  sample : Option Sample
deriving DecidableEq, Repr

/-- The current evaluation (R18). -/
structure Current where
  /-- The zone it belongs to; none is the discarded mark (R12). -/
  zone : Option ZoneId
  start : Time
  bank : BankId
  defn : ZoneDef
  air : List SnapEntry
  surface : List SnapEntry
deriving DecidableEq, Repr

/-! ### The probe table (section 4.1, R108, R142) -/

/-- The state of an enrolled slot (R72). VACANT is the absence of the record (log 15). -/
inductive ProbeState where
  | pending | live | heating | lost | held
deriving DecidableEq, Repr

inductive Kind where
  | air | surface
deriving DecidableEq, Repr

/-- Resolution class. -/
inductive ResClass where
  | c8 | c12 | c16
deriving DecidableEq, Repr

/-- Widening rule (R95). -/
inductive Widening where
  | zero | ones | repeatTop | mid
deriving DecidableEq, Repr

/-- Last outcome of a slot (R75). -/
inductive ProbeOutcome where
  | none | good | silent | badCheck | wrongAddress | malformed | implausible | lineFault
deriving DecidableEq, Repr

/-- An accepted reading: temperature, humidity for AIR, stamp (R74). -/
structure Reading where
  temp : Int
  rh : Option Nat
  stamp : Time
deriving DecidableEq, Repr

/-- Origin of a heat-armed mark (R108). -/
inductive Origin where
  | rule | forced
deriving DecidableEq, Repr

/-- Pace of a slot (R142). -/
inductive Pace where
  | fast | settled
deriving DecidableEq, Repr

/-- The record of an enrolled slot (section 4.1). A SURFACE slot has no RH offset and no heater fields:
its `rhOffset` is 0, its `run` 0, `armed` none and `deferred` false (R73, R108). -/
structure Slot where
  state : ProbeState
  line : LineId
  /-- 1 to 62. -/
  address : Nat
  kind : Kind
  cls : ResClass
  rule : Widening
  tempOffset : Int
  rhOffset : Int
  reading : Option Reading
  /-- Consecutive misses, 0 to 15. -/
  misses : Nat
  lastOutcome : ProbeOutcome
  nextDue : Time
  lastPoll : Time
  /-- Held by the slot's line engine (R142). -/
  pace : Pace
  /-- The slot is due: from the moment its next-due time is reached until it is written with a value that lies ahead (R143). -/
  due : Bool
  /-- The time base at the slot's latest advancing; none while it has not been advanced since its enrolment. The model's own: R151
reads whether the slot's outcome was taken in this tick (log 23). -/
  advancedAt : Option Time
  /-- Saturation run count, 0 to 15. -/
  run : Nat
  /-- Heat-armed mark with its origin. -/
  armed : Option Origin
  /-- Deferred mark. -/
  deferred : Bool
  /-- Heat-end time, in HEATING only. -/
  heatEnd : Option Time
deriving DecidableEq, Repr

/-! ### Probe lines (R125, R128) -/

/-- Bit rate of a line (R124). -/
inductive Rate where
  | r1200 | r2400 | r4800 | r9600 | r19200
deriving DecidableEq, Repr

inductive BitOrder where
  | lsbFirst | msbFirst
deriving DecidableEq, Repr

/-- Command of a poll, HEAT with its duration in seconds (R128). -/
inductive Command where
  | read
  | heat (duration : Nat)
deriving DecidableEq, Repr

/-- Phase of a transaction (section 7.4). DISCARDING and TURNAROUND come after completion. -/
inductive Phase where
  | sending | awaiting | receiving | discarding | turnaround
deriving DecidableEq, Repr

/-- The transaction record (R128), with the reply as far as it has come. -/
structure Txn where
  slot : SlotId
  command : Command
  address : Nat
  /-- Expected payload length (R130). -/
  expected : Nat
  cls : ResClass
  /-- Poll start time. -/
  pollStart : Time
  phase : Phase
  /-- Orphan mark. -/
  orphan : Bool
  /-- Values of the reply characters received so far, the address character first (R130). -/
  received : List Byte
  /-- A reply character had a framing error: the engine waits for the idle level or a fault (R131). -/
  framingWait : Bool
deriving DecidableEq, Repr

/-- State of a line; a transaction is present in BUSY only (R125). -/
inductive LineState where
  | off
  | idle
  | busy (txn : Txn)
  | fault
deriving DecidableEq, Repr

/-- The names of the line states, as a LINE_STATE notice carries them. -/
inductive LineStateName where
  | off | idle | busy | fault
deriving DecidableEq, Repr

/-- A line record (R125) with the levels of its pins. -/
structure Line where
  state : LineState
  rate : Rate
  order : BitOrder
  /-- Reply timeout in ms. -/
  replyTimeout : Nat
  /-- Fault time in ms. -/
  faultTime : Nat
  lastServed : Option SlotId
  /-- The pin PLn-DE is active (R128). -/
  driveEnable : Bool
  /-- The line, pin PLn-D, is at the active level (R123). -/
  activeLevel : Bool
  /-- An active stretch is being measured (R136). -/
  activeStretch : Bool
  /-- A rest stretch is being measured (R139). -/
  restStretch : Bool
deriving DecidableEq, Repr

/-! ### Notices and alert lines (R154, R156, R163) -/

/-- The body of a notice (R154). -/
inductive NoticeBody where
  | zoneState (zone : ZoneId) (old new : ZoneState) (values : Option Values)
  | probeState (slot : SlotId) (old new : ProbeState) (last : ProbeOutcome)
  | lineState (line : LineId) (old new : LineStateName)
  | heatDeferred (slot : SlotId) (zone : ZoneId)
  | tableSwap (new old : BankId)
deriving DecidableEq, Repr

structure Notice where
  stamp : Time
  body : NoticeBody
deriving DecidableEq, Repr

/-- The notice queue, its overflow mark, and how many notices at its head the data frame in transmission carries (R156, R157, R159). -/
structure NoticeQueue where
  queue : List Notice
  overflow : Bool
  carried : Nat
deriving DecidableEq, Repr

/-- The seven alert sources (R162). -/
inductive AlertSource where
  | watchAny | alertAny | dewAny | blindAny | lostAny | faultAny | queueLevel
deriving DecidableEq, Repr

inductive AlertMode where
  | level | latched
deriving DecidableEq, Repr

/-- The record of an alert line; the routed set is the source byte's low seven bits (R163, R184). -/
structure AlertLine where
  mode : AlertMode
  routed : BitVec 7
  latch : Bool
deriving DecidableEq, Repr

/-! ### The station link (R168 to R175) -/

/-- Bit rate of the station link (R168). -/
inductive LinkRate where
  | r9600 | r19200 | r57600 | r115200
deriving DecidableEq, Repr

/-- Exchange state (R170). -/
inductive ExchangeState where
  | idle | receiving | sending
deriving DecidableEq, Repr

/-- What a FROM_PART data phase still has to send: the first record not yet in a frame and the end of the range (R174). -/
inductive RecordSource where
  /-- The identity record, unless it has been sent (R179). -/
  | identity (sent : Bool)
  /-- The status records from number `next` + 1 on (R180). -/
  | status (next : Nat)
  /-- The slot records `next` to `stop` − 1 (R92). -/
  | probes (next stop : Nat)
  /-- The zone records `next` to `stop` − 1 (R15). -/
  | zones (next stop : Nat)
  /-- The entries `next` to `stop` − 1 of a bank (R66). -/
  | entries (bank : BankId) (next stop : Nat)
  /-- The notices from the head of the queue (R159). -/
  | notices
deriving DecidableEq, Repr

/-- The open exchange (R170), with the progress of its data phase. -/
structure Exchange where
  tag : Byte
  /-- The operation byte of the request; of an unknown operation too, for the result that refuses it (R172). -/
  op : Byte
  /-- Expected length E. -/
  expected : Nat
  /-- Bytes moved. -/
  moved : Nat
  /-- Bytes taken by the table unit, a held byte included (R173). -/
  taken : Nat
  /-- The held first byte of an element (R55). -/
  held : Option Byte
  /-- The records of a FROM_PART data phase. -/
  source : Option RecordSource
  /-- A record did not fit in what was left of E, so no further record is sent (R15, R66, R92, R180). -/
  closed : Bool
deriving DecidableEq, Repr

/-- A frame that the part transmits, without its lead, kind, length and CRC bytes (R183). -/
structure OutFrame where
  tag : Byte
  body : List Byte
deriving DecidableEq, Repr

/-- A good REQUEST frame that waits (R175). -/
structure RequestFrame where
  tag : Byte
  body : List Byte
deriving DecidableEq, Repr

/-- The link controller (R170). -/
structure Link where
  rate : LinkRate
  state : ExchangeState
  exchange : Option Exchange
  /-- The data frame in transmission (R174). -/
  dataFrame : Option OutFrame
  /-- The result frame in transmission; its presence is the result-in-transmission mark (R170, R175). -/
  result : Option OutFrame
  waiting : Option RequestFrame
  /-- The bytes of the partial frame after its lead byte (R169). -/
  partialFrame : Option (List Byte)
  /-- RESTART has been taken: it takes effect when the result frame has been transmitted (R181). -/
  restartPending : Bool
deriving DecidableEq, Repr

/-! ### The whole state -/

/-- The state of the 2496. -/
structure State where
  timeBase : Time
  params : Params
  link : Link
  tables : Tables
  /-- Z0 to Z23; none is IDLE. -/
  zones : Vector (Option Zone) 24
  dueQueue : List ZoneId
  current : Option Current
  /-- Slots 0 to 95; none is VACANT. -/
  slots : Vector (Option Slot) 96
  lines : Vector Line 4
  notices : NoticeQueue
  alertA : AlertLine
  alertB : AlertLine
  /-- The MODEL's own: how many free values have been drawn (log 9, log 10). -/
  freeCount : Nat
  /-- The MODEL's own: the commands that wait, first in first out (log 2). -/
  pending : List Instr
deriving DecidableEq, Repr

/-- No command of this block stops it with a fault: the manual gives each an effect (log 20). -/
inductive Fault where
deriving DecidableEq, Repr

/-- The reasons to refuse a command. -/
inductive Refusal where
  /-- The command has no meaning yet; safe. No arm of exec answers it: every row of the table has its meaning (log 20). -/
  | notModelled (mnemonic : String)
deriving DecidableEq, Repr

/-! ### Values after reset -/

/-- The defaults of R177. -/
def Params.defaults : Params :=
  { freshLimit := 300, pollFast := 50, pollSettled := 300, evalFast := 50, evalSettled := 300, missLimit := 4
    stepLimit := 500, satLimit := 9800, satCount := 3, heatTime := 20, recoveryTime := 60, watermark := 32
    policy := .keepOldest }

/-- An EMPTY bank (R50). -/
def Bank.emptyBank : Bank := { state := .empty, contents := none }

/-- The banks after a hardware reset (R70). -/
def Tables.reset : Tables := { rom := .active, a := .emptyBank, b := .emptyBank, cursor := none }

/-- A line after either reset, with its pin at the given level (R141). -/
def Line.reset (activeLevel : Bool) : Line :=
  { state := .off, rate := .r9600, order := .lsbFirst, replyTimeout := 50, faultTime := 100, lastServed := none
    driveEnable := false, activeLevel := activeLevel, activeStretch := false, restStretch := false }

/-- The notice queue after either reset (R167). -/
def NoticeQueue.reset : NoticeQueue := { queue := [], overflow := false, carried := 0 }

/-- An alert line after either reset (R167). -/
def AlertLine.reset : AlertLine := { mode := .level, routed := 0, latch := false }

/-- The link controller after either reset, at the given rate (R181). -/
def Link.reset (rate : LinkRate) : Link :=
  { rate := rate, state := .idle, exchange := none, dataFrame := none, result := none, waiting := none
    partialFrame := none, restartPending := false }

/-- The 2496 after a hardware reset. The link rate is what RATE1 and RATE0 select: both low here, DESIGN CHOICE (log 8).
Each probe line is at its idle level: DESIGN CHOICE (log 7). `freeCount` starts at 0: DESIGN CHOICE (log 9). -/
def State.reset : State :=
  { timeBase := 0, params := .defaults, link := .reset .r9600, tables := .reset
    zones := Vector.replicate 24 none, dueQueue := [], current := none
    slots := Vector.replicate 96 none, lines := Vector.replicate 4 (.reset false)
    notices := .reset, alertA := .reset, alertB := .reset, freeCount := 0, pending := [] }

end Sys2Proof.Machine
end

