-- ==== Sys2Proof/Machine/Operands.lean ====
section
/-! DEFINITION. Operands: the records that a slot, zone or line number names, the byte order of the link (R182), the codes of R184, and the characters of a probe line (R123, R193). -/

namespace Sys2Proof.Machine

/-! ### The records that a number names -/

/-- The record of a slot; none is VACANT. -/
def State.slot (s : State) (i : SlotId) : Option Slot := s.slots.get i

/-- Writes the record of a slot. -/
def State.setSlot (i : SlotId) (r : Option Slot) (s : State) : State :=
  { s with slots := s.slots.set i.val r i.isLt }

/-- The record of a zone; none is IDLE. -/
def State.zone (s : State) (z : ZoneId) : Option Zone := s.zones.get z

/-- Writes the record of a zone. -/
def State.setZone (z : ZoneId) (r : Option Zone) (s : State) : State :=
  { s with zones := s.zones.set z.val r z.isLt }

/-- The record of a line. -/
def State.line (s : State) (l : LineId) : Line := s.lines.get l

/-- Writes the record of a line. -/
def State.setLine (l : LineId) (r : Line) (s : State) : State :=
  { s with lines := s.lines.set l.val r l.isLt }

/-- The slot that a byte of a request names, if it is at most 95. -/
def slotOfByte (b : Byte) : Option SlotId := if h : b.toNat < 96 then some ⟨b.toNat, h⟩ else none

/-- The zone that a byte of a request names, if it is at most 23. -/
def zoneOfByte (b : Byte) : Option ZoneId := if h : b.toNat < 24 then some ⟨b.toNat, h⟩ else none

/-- The line that a byte of a request names, if it is at most 3. -/
def lineOfByte (b : Byte) : Option LineId := if h : b.toNat < 4 then some ⟨b.toNat, h⟩ else none

/-! ### Fields of one, two and four bytes (R182) -/

/-- A one-byte field. -/
def byte (n : Nat) : Byte := BitVec.ofNat 8 n

/-- A two-byte unsigned field, low byte first. -/
def bytes16 (n : Nat) : List Byte := [byte n, byte (n / 256)]

/-- A two-byte signed field, two's complement, low byte first. -/
def bytesSigned (i : Int) : List Byte := bytes16 (BitVec.ofInt 16 i).toNat

/-- A four-byte time, low byte first. -/
def bytesTime (t : Time) : List Byte :=
  [t.setWidth 8, (t >>> 8).setWidth 8, (t >>> 16).setWidth 8, (t >>> 24).setWidth 8]

/-- The unsigned number that two bytes spell, low byte first. -/
def unsigned16 (lo hi : Byte) : Nat := lo.toNat + 256 * hi.toNat

/-- The signed number that two bytes spell, low byte first. -/
def signed16 (lo hi : Byte) : Int := (BitVec.ofNat 16 (unsigned16 lo hi)).toInt

/-- The 16-bit field that two bytes spell, low byte first. -/
def word16 (lo hi : Byte) : Word16 := BitVec.ofNat 16 (unsigned16 lo hi)

/-- A flag in one byte. -/
def flagByte (b : Bool) : Byte := if b then 1 else 0

/-- A flags byte from its bits, bit 0 first. -/
def flagBits : List Bool → Nat
  | [] => 0
  | b :: bs => (if b then 1 else 0) + 2 * flagBits bs

/-! ### Codes of named values (R184) -/

def Level.code : Level → Byte
  | .clear => 2
  | .watch => 3
  | .alert => 4
  | .dew => 5

/-- Code of a defined zone's state; IDLE is 0. -/
def ZoneState.code : ZoneState → Byte
  | .blind => 1
  | .level l => l.code

/-- Code of an enrolled slot's state; VACANT is 0. -/
def ProbeState.code : ProbeState → Byte
  | .pending => 1
  | .live => 2
  | .heating => 3
  | .lost => 4
  | .held => 5

def Kind.code : Kind → Byte
  | .air => 0
  | .surface => 1

def kindOfCode (b : Byte) : Option Kind :=
  match b.toNat with
  | 0 => some .air
  | 1 => some .surface
  | _ => none

def ResClass.code : ResClass → Byte
  | .c8 => 0
  | .c12 => 1
  | .c16 => 2

def classOfCode (b : Byte) : Option ResClass :=
  match b.toNat with
  | 0 => some .c8
  | 1 => some .c12
  | 2 => some .c16
  | _ => none

def Widening.code : Widening → Byte
  | .zero => 0
  | .ones => 1
  | .repeatTop => 2
  | .mid => 3

def wideningOfCode (b : Byte) : Option Widening :=
  match b.toNat with
  | 0 => some .zero
  | 1 => some .ones
  | 2 => some .repeatTop
  | 3 => some .mid
  | _ => none

def ProbeOutcome.code : ProbeOutcome → Byte
  | .none => 0
  | .good => 1
  | .silent => 2
  | .badCheck => 3
  | .wrongAddress => 4
  | .malformed => 5
  | .implausible => 6
  | .lineFault => 7

/-- The name of a line's state. -/
def LineState.name : LineState → LineStateName
  | .off => .off
  | .idle => .idle
  | .busy _ => .busy
  | .fault => .fault

def LineStateName.code : LineStateName → Byte
  | .off => 0
  | .idle => 1
  | .busy => 2
  | .fault => 3

def Rate.code : Rate → Byte
  | .r1200 => 0
  | .r2400 => 1
  | .r4800 => 2
  | .r9600 => 3
  | .r19200 => 4

def rateOfCode (b : Byte) : Option Rate :=
  match b.toNat with
  | 0 => some .r1200
  | 1 => some .r2400
  | 2 => some .r4800
  | 3 => some .r9600
  | 4 => some .r19200
  | _ => none

def BitOrder.code : BitOrder → Byte
  | .lsbFirst => 0
  | .msbFirst => 1

def orderOfCode (b : Byte) : Option BitOrder :=
  match b.toNat with
  | 0 => some .lsbFirst
  | 1 => some .msbFirst
  | _ => none

def BankId.code : BankId → Byte
  | .rom => 0
  | .a => 1
  | .b => 2

def bankOfCode (b : Byte) : Option BankId :=
  match b.toNat with
  | 0 => some .rom
  | 1 => some .a
  | 2 => some .b
  | _ => none

def BankState.code : BankState → Byte
  | .empty => 0
  | .loading => 1
  | .loaded => 2
  | .pending => 3
  | .active => 4
  | .standby => 5

def ElementPosition.code : ElementPosition → Byte
  | .temperature => 0
  | .pressure => 1

def alertModeOfCode (b : Byte) : Option AlertMode :=
  match b.toNat with
  | 0 => some .level
  | 1 => some .latched
  | _ => none

/-- The outcomes of an exchange (R176). -/
inductive Outcome where
  | ok | truncated | short | halted | corrupt | phase | abandoned | refused
deriving DecidableEq, Repr

def Outcome.code : Outcome → Byte
  | .ok => 0
  | .truncated => 1
  | .short => 2
  | .halted => 3
  | .corrupt => 4
  | .phase => 5
  | .abandoned => 6
  | .refused => 7

/-- The reasons of section 10.3; `none` is the empty reason. -/
inductive Reason where
  | none | badOp | badParam | length | busy | inUse | duplicate | notVacant | vacant | notHeld | wrongKind | limit
  | zoneActive | lineActive | notLoading | incomplete | notValid | checkFirst | checkSecond | order | tableFull
deriving DecidableEq, Repr

def Reason.code : Reason → Byte
  | .none => 0
  | .badOp => 1
  | .badParam => 2
  | .length => 3
  | .busy => 4
  | .inUse => 5
  | .duplicate => 6
  | .notVacant => 7
  | .vacant => 8
  | .notHeld => 9
  | .wrongKind => 10
  | .limit => 11
  | .zoneActive => 12
  | .lineActive => 13
  | .notLoading => 14
  | .incomplete => 15
  | .notValid => 16
  | .checkFirst => 17
  | .checkSecond => 18
  | .order => 19
  | .tableFull => 20

/-! ### Parameters (R177, R178, R184) -/

/-- The thirteen parameters. -/
inductive Param where
  | freshLimit | pollFast | pollSettled | evalFast | evalSettled | missLimit | stepLimit | satLimit | satCount
  | heatTime | recoveryTime | watermark | policy
deriving DecidableEq, Repr

def paramOfCode (b : Byte) : Option Param :=
  match b.toNat with
  | 1 => some .freshLimit
  | 2 => some .pollFast
  | 3 => some .pollSettled
  | 4 => some .evalFast
  | 5 => some .evalSettled
  | 6 => some .missLimit
  | 7 => some .stepLimit
  | 8 => some .satLimit
  | 9 => some .satCount
  | 10 => some .heatTime
  | 11 => some .recoveryTime
  | 12 => some .watermark
  | 13 => some .policy
  | _ => none

def policyOfCode : Nat → Option QueuePolicy
  | 0 => some .keepOldest
  | 1 => some .keepNewest
  | _ => none

def QueuePolicy.code : QueuePolicy → Nat
  | .keepOldest => 0
  | .keepNewest => 1

/-- The present value of a parameter, as a result carries it. -/
def Params.get (p : Params) : Param → Nat
  | .freshLimit => p.freshLimit
  | .pollFast => p.pollFast
  | .pollSettled => p.pollSettled
  | .evalFast => p.evalFast
  | .evalSettled => p.evalSettled
  | .missLimit => p.missLimit
  | .stepLimit => p.stepLimit
  | .satLimit => p.satLimit
  | .satCount => p.satCount
  | .heatTime => p.heatTime
  | .recoveryTime => p.recoveryTime
  | .watermark => p.watermark
  | .policy => p.policy.code

/-- `v` lies in `lo` to `hi`. -/
def inRange (lo hi v : Nat) : Bool := lo ≤ v && v ≤ hi

/-- Writes a parameter, if the value is in its range and agrees with the present value of its partner (R177, R178). -/
def Params.write (p : Params) (q : Param) (v : Nat) : Option Params :=
  match q with
  | .freshLimit => if inRange 10 6000 v then some { p with freshLimit := v } else none
  | .pollFast => if inRange 5 600 v && v ≤ p.pollSettled then some { p with pollFast := v } else none
  | .pollSettled => if inRange 5 6000 v && p.pollFast ≤ v then some { p with pollSettled := v } else none
  | .evalFast => if inRange 5 600 v && v ≤ p.evalSettled then some { p with evalFast := v } else none
  | .evalSettled => if inRange 5 6000 v && p.evalFast ≤ v then some { p with evalSettled := v } else none
  | .missLimit => if inRange 1 15 v then some { p with missLimit := v } else none
  | .stepLimit => if inRange 10 2000 v then some { p with stepLimit := v } else none
  | .satLimit => if inRange 9000 10000 v then some { p with satLimit := v } else none
  | .satCount => if inRange 1 15 v then some { p with satCount := v } else none
  | .heatTime => if inRange 1 255 v then some { p with heatTime := v } else none
  | .recoveryTime => if inRange 1 255 v then some { p with recoveryTime := v } else none
  | .watermark => if inRange 1 128 v then some { p with watermark := v } else none
  | .policy => (policyOfCode v).map fun k => { p with policy := k }

/-! ### Characters of a probe line (R123, R193) -/

/-- The nine data bits of a character as LSB-FIRST sends them, from the bits as they stand on a line of the given order.
MSB-FIRST sends the same nine bits in the opposite order. -/
def inLsbOrder (order : BitOrder) (bits : BitVec 9) : BitVec 9 :=
  match order with
  | .lsbFirst => bits
  | .msbFirst => bits.reverse

/-- The mark of a character with the given bits on the line. -/
def markOf (order : BitOrder) (bits : BitVec 9) : Bool := (inLsbOrder order bits).getLsbD 8

/-- The value of a character with the given bits on the line. -/
def valueOf (order : BitOrder) (bits : BitVec 9) : Byte := (inLsbOrder order bits).setWidth 8

/-- The nine data bits of a character in the order they are sent. -/
def dataBits (order : BitOrder) (mark : Bool) (value : Byte) : BitVec 9 :=
  inLsbOrder order (BitVec.cons mark value)

/-- The eleven levels of a character in the order they are sent, true the idle level: start, data, stop (R123). -/
def characterLevels (order : BitOrder) (mark : Bool) (value : Byte) : List Bool :=
  false :: ((List.range 9).map fun k => (dataBits order mark value).getLsbD k) ++ [true]

/-- The characters of a poll, as mark and value, in the order they are sent (R128, R193). -/
def Txn.pollCharacters (t : Txn) : List (Bool × Byte) :=
  match t.command with
  | .read => [(true, byte t.address), (false, 0x01)]
  | .heat d => [(true, byte t.address), (false, 0x02), (false, byte d)]

/-! ### The bit rate of the station link (R168) -/

/-- The rate that the levels of RATE1 and RATE0 select (R168). -/
def linkRateOf (rate1 rate0 : Bool) : LinkRate :=
  match rate1, rate0 with
  | false, false => .r9600
  | false, true => .r19200
  | true, false => .r57600
  | true, true => .r115200

/-- The bit rate of the station link in bit/s, the same in both directions (R168). -/
def LinkRate.bitsPerSecond : LinkRate → Nat
  | .r9600 => 9600
  | .r19200 => 19200
  | .r57600 => 57600
  | .r115200 => 115200

end Sys2Proof.Machine
end

