-- ==== Sys2Proof/Machine/Flags.lean ====
section
/-! DEFINITION. Judgements and checks: ages and times that lie ahead (R103, R143), the CRCs (R194, R195), and the conditions, onsets and levels of the alert lines (R162 to R164). -/

namespace Sys2Proof.Machine

/-! ### Times -/

/-- Age of a stamp: the time base minus the stamp modulo 2^32 (00, Age). -/
def age (now stamp : Time) : Nat := (now - stamp).toNat

/-- A time lies ahead when it minus the time base, modulo 2^32, is from 1 to 6000 (R143). Timer expiries and heat-end
times lie at most 6000 and 5100 ticks ahead (R20, R89), so the same test says that they are not yet reached. -/
def liesAhead (now t : Time) : Bool := 1 ≤ age t now && age t now ≤ 6000

/-- A reading is fresh while its age is at most FRESH_LIMIT (R103). -/
def fresh (s : State) (r : Reading) : Bool := age s.timeBase r.stamp ≤ s.params.freshLimit

/-! ### Check computations -/

/-- One shift of the CRC-16 register (R194). -/
def crc16Shift (reg : Word16) : Word16 :=
  if reg.getLsbD 15 then (reg <<< 1) ^^^ 0x1021 else reg <<< 1

/-- One byte through the CRC-16 (R194). -/
def crc16Byte (reg : Word16) (b : Byte) : Word16 :=
  let r := reg ^^^ (b.setWidth 16 <<< 8)
  crc16Shift (crc16Shift (crc16Shift (crc16Shift (crc16Shift (crc16Shift (crc16Shift (crc16Shift r)))))))

/-- A sequence of bytes through the CRC-16, from a register's present value (R194). -/
def crc16From (reg : Word16) (bs : List Byte) : Word16 := bs.foldl crc16Byte reg

/-- The CRC-16 of a frame's covered bytes (R194). -/
def crc16 (bs : List Byte) : Word16 := crc16From 0xFFFF bs

/-- One shift of the CRC-8 register (R195). -/
def crc8Shift (reg : Byte) : Byte :=
  if reg.getLsbD 7 then (reg <<< 1) ^^^ 0x31 else reg <<< 1

/-- One value through the CRC-8 (R195). -/
def crc8Byte (reg b : Byte) : Byte :=
  let r := reg ^^^ b
  crc8Shift (crc8Shift (crc8Shift (crc8Shift (crc8Shift (crc8Shift (crc8Shift (crc8Shift r)))))))

/-- The CRC-8 of a probe reply's length and payload values (R195). -/
def crc8 (bs : List Byte) : Byte := bs.foldl crc8Byte 0xFF

/-! ### Alert conditions, onsets and levels -/

/-- Some zone is defined and its state satisfies `p`. -/
def someZone (s : State) (p : ZoneState → Bool) : Bool :=
  allZones.any fun z => match s.zone z with
    | some r => p r.state
    | none => false

/-- Some slot is LOST. -/
def someLost (s : State) : Bool :=
  allSlots.any fun i => match s.slot i with
    | some r => r.state == .lost
    | none => false

/-- Some line is in FAULT. -/
def someFault (s : State) : Bool := allLines.any fun l => (s.line l).state == .fault

/-- The zone states that a zone source covers (R162). -/
def AlertSource.covers : AlertSource → ZoneState → Bool
  | .watchAny, .level .watch | .watchAny, .level .alert | .watchAny, .level .dew => true
  | .alertAny, .level .alert | .alertAny, .level .dew => true
  | .dewAny, .level .dew => true
  | .blindAny, .blind => true
  | _, _ => false

/-- A source's condition holds (R162). -/
def conditionHolds (s : State) : AlertSource → Bool
  | .lostAny => someLost s
  | .faultAny => someFault s
  | .queueLevel => s.params.watermark ≤ s.notices.queue.length
  | src => someZone s src.covers

/-- The bit of a source in a source set (R184). -/
def AlertSource.bit : AlertSource → Nat
  | .watchAny => 0
  | .alertAny => 1
  | .dewAny => 2
  | .blindAny => 3
  | .lostAny => 4
  | .faultAny => 5
  | .queueLevel => 6

def allAlertSources : List AlertSource :=
  [.watchAny, .alertAny, .dewAny, .blindAny, .lostAny, .faultAny, .queueLevel]

/-- The line routes the source. -/
def AlertLine.routes (a : AlertLine) (src : AlertSource) : Bool := a.routed.getLsbD src.bit

/-- The line is asserted, its pin driven low (R163). -/
def alertAsserted (s : State) (a : AlertLine) : Bool :=
  match a.mode with
  | .level => allAlertSources.any fun src => a.routes src && conditionHolds s src
  | .latched => a.latch

/-- An onset reaches one alert line: it sets the latch of a LATCHED line that routes the source (R164). -/
def AlertLine.onOnset (src : AlertSource) (a : AlertLine) : AlertLine :=
  if a.mode = .latched ∧ a.routes src = true then { a with latch := true } else a

/-- An onset reaches both alert lines (R162, R164). -/
def onset (src : AlertSource) (s : State) : State :=
  { s with alertA := s.alertA.onOnset src, alertB := s.alertB.onOnset src }

/-- The onsets that a completion gives by taking a zone from `old` to `new`, two different states (R44): a zone entering a
source's set from outside it. -/
def zoneOnsets (old new : ZoneState) (s : State) : State :=
  [AlertSource.watchAny, .alertAny, .dewAny, .blindAny].foldl
    (fun s src => if src.covers new && !src.covers old then onset src s else s) s

end Sys2Proof.Machine
end

