-- ==== Sys2Proof/Machine/Ops.lean ====
section
/-! DEFINITION. Operations that several blocks share: the arrival of a notice, free orders, membership, schedulable and contributing slots, pace and next-due time, and the banks' states. -/

namespace Sys2Proof.Machine

/-! ### The notice queue (R156 to R158) -/

/-- The most notices the queue holds (R156). -/
def queueCapacity : Nat := 128

/-- A notice arrives: at the tail, or under QUEUE_POLICY at a full queue (R157). An arrival that takes the count to
QUEUE_WATERMARK is an onset of QUEUE_LEVEL (R158). Under KEEP_NEWEST a head that the frame in transmission carries is discarded
all the same, and is not removed a second time when the frame ends. -/
def arrive (n : Notice) (s : State) : State :=
  if s.notices.queue.length < queueCapacity then
    let s' := { s with notices := { s.notices with queue := s.notices.queue ++ [n] } }
    if s.notices.queue.length + 1 = s.params.watermark then onset .queueLevel s' else s'
  else
    match s.params.policy with
    | .keepOldest => { s with notices := { s.notices with overflow := true } }
    | .keepNewest =>
      { s with notices := { queue := s.notices.queue.tail ++ [n], overflow := true, carried := s.notices.carried - 1 } }

/-- A block emits a notice, stamped with the time base (R154). -/
def emit (body : NoticeBody) (s : State) : State := arrive { stamp := s.timeBase, body := body } s

/-! ### Orders that the manual leaves open (log 9) -/

/-- A list in the order that free values number `c` give: each element goes to a free place among those after it. -/
def freeOrder (c : Nat) : List SlotId → List SlotId
  | [] => []
  | x :: xs =>
    let ys := freeOrder c xs
    ys.insertIdx (Config.freePosition c xs.length % (ys.length + 1)) x

/-- One more free value has been drawn (log 9, log 10). -/
def countFree (s : State) : State := { s with freeCount := s.freeCount + 1 }

/-- Acts on each slot of a list, in a free order where the list has more than one. -/
def inFreeOrder (act : SlotId → State → State) (l : List SlotId) (s : State) : State :=
  if l.length ≤ 1 then l.foldl (fun s i => act i s) s
  else (freeOrder s.freeCount l).foldl (fun s i => act i s) (countFree s)

/-! ### Members and slots -/

/-- The members of a definition, air list first (R8, R26). -/
def ZoneDef.members (d : ZoneDef) : List SlotId := d.air ++ d.surface

/-- The member list of a kind. -/
def ZoneDef.membersOf (d : ZoneDef) : Kind → List SlotId
  | .air => d.air
  | .surface => d.surface

/-- A slot may be polled while PENDING, LIVE or LOST (R142). -/
def Slot.schedulable (r : Slot) : Bool := r.state == .pending || r.state == .live || r.state == .lost

/-- The contributor test of R25, with the sample that a snapshot takes (R26). -/
def contribution (s : State) (i : SlotId) : Option Sample :=
  match s.slot i with
  | some r =>
    match r.reading with
    | some rd => if r.state = .live ∧ fresh s rd = true then some { temp := rd.temp, rh := rd.rh } else none
    | none => none
  | none => none

/-- The non-IDLE zones that name a slot in either list. -/
def zonesNaming (s : State) (i : SlotId) : List ZoneId :=
  allZones.filter fun z => match s.zone z with
    | some r => r.defn.members.contains i
    | none => false

/-- Some non-IDLE zone that names the slot is not CLEAR or has a rise run (R147). -/
def calledFast (s : State) (i : SlotId) : Bool :=
  allZones.any fun z => match s.zone z with
    | some r => r.defn.members.contains i && (r.state != .level .clear || r.riseCount != 0)
    | none => false

/-- The pace of a slot, from its state and its zones; a slot that is not schedulable keeps its pace (R142, R147). -/
def paceOf (s : State) (i : SlotId) (r : Slot) : Pace :=
  match r.state with
  | .pending => .fast
  | .lost => .settled
  | .live => if calledFast s i then .fast else .settled
  | .heating | .held => r.pace

/-- The number of ticks a pace stands for (R142). -/
def Params.ticksOf (p : Params) : Pace → Nat
  | .fast => p.pollFast
  | .settled => p.pollSettled

/-- Writes a next-due time and judges whether the slot is due (R143). -/
def Slot.withNextDue (r : Slot) (now t : Time) : Slot := { r with nextDue := t, due := !liesAhead now t }

/-- Clears the heat-armed mark, the deferred mark and the run count (R121). -/
def Slot.clearHeater (r : Slot) : Slot := { r with run := 0, armed := none, deferred := false }

/-- The line of a slot is in FAULT. -/
def onFaultLine (s : State) (i : SlotId) : Bool :=
  match s.slot i with
  | some r => (s.line r.line).state == .fault
  | none => false

/-- Advancing (R148): the next-due time of a schedulable slot becomes its last poll time plus the ticks of its pace. The slot keeps
when that was, for R151 (log 23). -/
def advance (i : SlotId) (s : State) : State :=
  match s.slot i with
  | some r =>
    if r.schedulable then
      let p := paceOf s i r
      s.setSlot i (some { r.withNextDue s.timeBase (r.lastPoll + BitVec.ofNat 32 (s.params.ticksOf p)) with
        pace := p, advancedAt := some s.timeBase })
    else s
  | none => s

/-! ### Bank states (R52, R64) -/

/-- The state of a bank. -/
def Tables.stateOf (t : Tables) : BankId → BankState
  | .rom => t.rom
  | .a => t.a.state
  | .b => t.b.state

/-- Writes the state of a bank. -/
def Tables.setState (t : Tables) (k : BankId) (st : BankState) : Tables :=
  match k with
  | .rom => { t with rom := st }
  | .a => { t with a := { t.a with state := st } }
  | .b => { t with b := { t.b with state := st } }

/-- The ACTIVE bank (R53). -/
def Tables.activeBank (t : Tables) : BankId :=
  if t.a.state = .active then .a else if t.b.state = .active then .b else .rom

/-- The PENDING bank, if there is one (R52). -/
def Tables.pendingBank (t : Tables) : Option BankId :=
  if t.a.state = .pending then some .a else if t.b.state = .pending then some .b
  else if t.rom = .pending then some .rom else none

/-- The swap (R64): a PENDING bank becomes ACTIVE, the bank that was ACTIVE becomes STANDBY, and TABLE_SWAP is emitted. -/
def swapPending (s : State) : State :=
  match s.tables.pendingBank with
  | none => s
  | some k =>
    let old := s.tables.activeBank
    emit (.tableSwap k old) { s with tables := (s.tables.setState old .standby).setState k .active }

end Sys2Proof.Machine
end

