-- ==== Sys2Proof/Machine/Lookup.lean ====
section
/-! DEFINITION. The contents of the banks and the lookups: bank ROM (R51), the forward lookup (R68) and the inverse lookup (R69). -/

namespace Sys2Proof.Machine

/-- The pressures of bank ROM, entry 0 first (R51). -/
def romPressures : List Nat :=
  [287, 336, 391, 455, 528, 611, 706, 813, 934, 1071, 1226, 1400, 1595, 1814, 2059, 2333,
   2637, 2977, 3353, 3771, 4234, 4745, 5309, 5931, 6616, 7367, 8192, 9096, 10085, 11166, 12345, 13630]

/-- Bank ROM: entry k has the temperature point −1000 + 200k (R51). -/
def romEntries : List Entry :=
  romPressures.zipIdx.map fun (p, k) => { temp := -1000 + 200 * (k : Int), pressure := p }

/-- The complete entries of a bank. -/
def Bank.entries (k : Bank) : List Entry :=
  match k.contents with
  | some c => c.entries
  | none => []

/-- The complete entries of a bank by its name; ROM has its 32 (R51, R66). -/
def Tables.entriesOf (t : Tables) : BankId → List Entry
  | .rom => romEntries
  | .a => t.a.entries
  | .b => t.b.entries

/-- The forward lookup from entry `e` on, for a temperature at or above its point: the pressure and the clamp flag (R68). -/
def forwardFrom (e : Entry) : List Entry → Int → Int × Bool
  | [], _ => (e.pressure, true)
  | n :: rest, t =>
    if t < n.temp then
      ((e.pressure : Int) + ((n.pressure : Int) - e.pressure) * (t - e.temp) / (n.temp - e.temp), false)
    else forwardFrom n rest t

/-- The forward lookup of a temperature: saturation pressure and clamp flag (R68). A validated bank has at least two
entries (R50); the model answers 0 clamped for the empty list, which no validated bank is. -/
def forwardLookup (es : List Entry) (t : Int) : Nat × Bool :=
  match es with
  | [] => (0, true)
  | e :: rest =>
    if t < e.temp then (e.pressure, true)
    else
      let r := forwardFrom e rest t
      (r.1.toNat, r.2)

/-- The inverse lookup from entry `e` on, for a pressure at or above its own: the temperature and the clamp flag (R69). -/
def inverseFrom (e : Entry) : List Entry → Nat → Int × Bool
  | [], _ => (e.temp, true)
  | n :: rest, p =>
    if p < n.pressure then
      (e.temp + (n.temp - e.temp) * ((p : Int) - e.pressure) / ((n.pressure : Int) - e.pressure), false)
    else inverseFrom n rest p

/-- The inverse lookup of a vapour pressure: dew point and clamp flag (R69). The empty list as in `forwardLookup`. -/
def inverseLookup (es : List Entry) (p : Nat) : Int × Bool :=
  match es with
  | [] => (0, true)
  | e :: rest => if p < e.pressure then (e.temp, true) else inverseFrom e rest p

end Sys2Proof.Machine
end

