-- ==== Sys2Proof/Machine/Records.lean ====
section
/-! DEFINITION. The records that data frames carry: slot, zone, table entry, notice, status and identity records (R187 to R192). -/

namespace Sys2Proof.Machine

/-- A slot record (R187). -/
def slotRecord (s : State) (i : SlotId) : List Byte :=
  match s.slot i with
  | none => [byte i.val, 0]
  | some r =>
    [byte i.val, r.state.code, byte r.line.val, byte r.address, r.kind.code, r.cls.code, r.rule.code]
      ++ bytesSigned r.tempOffset ++ bytesSigned r.rhOffset
      ++ [byte r.misses, r.lastOutcome.code] ++ bytesTime r.nextDue ++ bytesTime r.lastPoll
      ++ [byte (flagBits [r.reading.isSome, r.armed.isSome, r.armed == some .forced, r.deferred, r.heatEnd.isSome]),
          byte r.run]
      ++ (match r.reading with
          | some rd => bytesSigned rd.temp ++ bytes16 (rd.rh.getD 0) ++ bytesTime rd.stamp
          | none => [0, 0, 0, 0, 0, 0, 0, 0])
      ++ bytesTime (r.heatEnd.getD 0)

/-- A slot list in `places` bytes, unused places 0xFF (R188). -/
def slotList (places : Nat) (l : List SlotId) : List Byte :=
  (l.map fun i => byte i.val) ++ List.replicate (places - l.length) 0xFF

/-- An optional level, absent 0xFF (R182). -/
def levelByte : Option Level → Byte
  | some l => l.code
  | none => 0xFF

/-- The values of a latest evaluation; absent numbers hold 0 and absent slots 0xFF (R182, R188). -/
def valuesBytes : Option Values → List Byte
  | some v => bytesSigned v.dewPoint ++ bytesSigned v.coldest ++ bytesSigned v.margin
      ++ [byte v.airSlot.val, byte v.surfaceSlot.val]
  | none => [0, 0, 0, 0, 0, 0, 0xFF, 0xFF]

/-- A zone record (R188). -/
def zoneRecord (s : State) (z : ZoneId) : List Byte :=
  match s.zone z with
  | none => [byte z.val, 0]
  | some r =>
    let values := r.latest.bind Latest.values
    [byte z.val, r.state.code] ++ bytes16 r.defn.watch ++ bytes16 r.defn.alert
      ++ [byte r.defn.hyst, byte r.defn.nin, byte r.defn.nout]
      ++ [byte r.defn.air.length] ++ slotList 6 r.defn.air
      ++ [byte r.defn.surface.length] ++ slotList 8 r.defn.surface
      ++ [byte r.riseCount, levelByte r.floor, byte r.fallCount, levelByte r.ceiling]
      ++ [byte (flagBits [r.latest.isSome, values.isSome, (r.latest.map Latest.rangeMark).getD false,
            r.expiry.isSome, r.dueMark])]
      ++ bytesTime ((r.latest.map Latest.stamp).getD 0)
      ++ [(r.latest.map fun l => l.bank.code).getD 0xFF]
      ++ valuesBytes values ++ bytesTime (r.expiry.getD 0)

/-- A table entry record (R189). -/
def entryRecord (index : Nat) (e : Entry) : List Byte := byte index :: bytesSigned e.temp ++ bytes16 e.pressure

/-- The kind code of a notice (R184). -/
def NoticeBody.kindCode : NoticeBody → Byte
  | .zoneState .. => 1
  | .probeState .. => 2
  | .lineState .. => 3
  | .heatDeferred .. => 4
  | .tableSwap .. => 5

/-- What follows a notice's stamp (R190). -/
def NoticeBody.bytes : NoticeBody → List Byte
  | .zoneState z old new values =>
    [byte z.val, old.code, new.code] ++ match values with
      | some v => valuesBytes (some v)
      | none => []
  | .probeState i old new last => [byte i.val, old.code, new.code, last.code]
  | .lineState l old new => [byte l.val, old.code, new.code]
  | .heatDeferred i z => [byte i.val, byte z.val]
  | .tableSwap new old => [new.code, old.code]

/-- A notice record: kind, size, stamp, body (R190). -/
def Notice.record (n : Notice) : List Byte :=
  n.body.kindCode :: byte (6 + n.body.bytes.length) :: bytesTime n.stamp ++ n.body.bytes

/-- The load cursor in the general status record; 0xFF while no bank is LOADING (R182, R191). -/
def cursorBytes : Option LoadCursor → List Byte
  | some c => [c.bank.code, byte c.entry, c.position.code]
  | none => [0xFF, 0xFF, 0xFF]

/-- The general status record (R191). -/
def generalRecord (s : State) : List Byte :=
  1 :: bytesTime s.timeBase
    ++ [s.tables.activeBank.code, s.tables.rom.code, s.tables.a.state.code, s.tables.b.state.code]
    ++ cursorBytes s.tables.cursor

/-- The line status record (R191). -/
def lineRecord (s : State) : List Byte :=
  2 :: allLines.flatMap fun l =>
    let r := s.line l
    [r.state.name.code, r.rate.code, r.order.code, byte r.replyTimeout] ++ bytes16 r.faultTime

/-- The code of a zone's state, IDLE included (R184). -/
def zoneStateCode (s : State) (z : ZoneId) : Byte :=
  match s.zone z with
  | some r => r.state.code
  | none => 0

/-- The code of a slot's state, VACANT included (R184). -/
def slotStateCode (s : State) (i : SlotId) : Byte :=
  match s.slot i with
  | some r => r.state.code
  | none => 0

/-- The population status record: zones, then slots, in each state in code order (R180, R191). -/
def populationRecord (s : State) : List Byte :=
  3 :: ((List.range 6).map fun k => byte (allZones.countP fun z => zoneStateCode s z == byte k))
    ++ ((List.range 6).map fun k => byte (allSlots.countP fun i => slotStateCode s i == byte k))

/-- The queue and alert status record (R191). -/
def queueRecord (s : State) : List Byte :=
  [4, byte s.notices.queue.length, flagByte s.notices.overflow,
   flagByte (alertAsserted s s.alertA), flagByte s.alertA.latch,
   flagByte (alertAsserted s s.alertB), flagByte s.alertB.latch]

/-- The four status records in order (R180). -/
def statusRecords (s : State) : List (List Byte) :=
  [generalRecord s, lineRecord s, populationRecord s, queueRecord s]

/-- The identity record (R192). -/
def identityRecord : List Byte := bytes16 0x2F5A ++ bytes16 0x2496 ++ [0x01, 96, 24, 4, 64, 128]

/-- The records that a data phase still has to send, in order, as the part stands now (R174). -/
def remainingRecords (s : State) : RecordSource → List (List Byte)
  | .identity sent => if sent then [] else [identityRecord]
  | .status next => (statusRecords s).drop next
  | .probes next stop => (allSlots.filter fun i => next ≤ i.val && i.val < stop).map (slotRecord s)
  | .zones next stop => (allZones.filter fun z => next ≤ z.val && z.val < stop).map (zoneRecord s)
  | .entries bank next stop =>
    (((s.tables.entriesOf bank).take stop).zipIdx.drop next).map fun (e, k) => entryRecord k e
  | .notices => s.notices.queue.map Notice.record

/-- The source after `n` of its records have gone into a frame. The notices of a frame leave the queue when it has been
transmitted (R159), so their source stays at the head of the queue. -/
def RecordSource.skip (n : Nat) : RecordSource → RecordSource
  | .identity sent => .identity (sent || n != 0)
  | .status next => .status (next + n)
  | .probes next stop => .probes (next + n) stop
  | .zones next stop => .zones (next + n) stop
  | .entries bank next stop => .entries bank (next + n) stop
  | .notices => .notices

end Sys2Proof.Machine
end

