-- ==== Sys2Proof/Machine/LinkOps.lean ====
section
/-! DEFINITION. The link controller's shared operations: results and refusals (R175, R176, R186), the building of data frames (R174), the taking of a request (R172) and the arrival of a good REQUEST frame (R171). -/

namespace Sys2Proof.Machine

/-! ### Results -/

/-- A result body: operation, outcome, reason, residue, operation fields (R186). -/
def resultBody (x : Exchange) (o : Outcome) (reason : Reason) (fields : List Byte) : List Byte :=
  x.op :: o.code :: reason.code :: bytes16 (x.expected - x.moved) ++ fields

/-- The result frame of the open exchange is built (R175): the data phase is over, its held byte is discarded (R58), the
exchange state is IDLE and the result is in transmission. -/
def sendResult (o : Outcome) (reason : Reason) (fields : List Byte) (s : State) : State :=
  match s.link.exchange with
  | none => s
  | some x =>
    { s with link := { s.link with
        state := .idle
        exchange := some { x with held := none, source := none }
        dataFrame := none
        result := some { tag := x.tag, body := resultBody x o reason fields } } }

/-- A refusal (R172), with the operation fields that R186 gives it. -/
def refuse (reason : Reason) (s : State) (fields : List Byte := []) : State := sendResult .refused reason fields s

/-- The result OK of a request of direction NONE (R172). -/
def okResult (s : State) (fields : List Byte := []) : State := sendResult .ok .none fields s

/-! ### Data frames to the host (R174) -/

/-- Why a frame was closed. -/
inductive FrameClosed where
  /-- No record waited any more. -/
  | exhausted
  /-- The next record would take the body above 64 bytes. -/
  | frameFull
  /-- The next record does not fit in what is left of E. -/
  | noRoom
deriving DecidableEq, Repr

/-- A frame body as it is filled: its bytes, its number of records, why it was closed. -/
structure Filled where
  body : List Byte
  count : Nat
  closed : FrameClosed
deriving DecidableEq, Repr

/-- Fills a frame with records in order (R174); `room` is what is left of E. -/
def fillFrame (room : Nat) (body : List Byte) (count : Nat) : List (List Byte) → Filled
  | [] => { body := body, count := count, closed := .exhausted }
  | r :: rest =>
    if 64 < body.length + r.length then { body := body, count := count, closed := .frameFull }
    else if room < body.length + r.length then { body := body, count := count, closed := .noRoom }
    else fillFrame room (body ++ r) (count + 1) rest

/-- The declared count and complete-entry count of a bank and its half-checks, as a TABLE-READ result carries them (R186). -/
def bankFields (t : Tables) (k : BankId) : List Byte :=
  let fields (b : Bank) : List Byte :=
    match b.contents with
    | some c => b.state.code :: byte c.declared :: byte c.entries.length :: bytes16 c.check1.toNat ++ bytes16 c.check2.toNat
    | none => [b.state.code, 0, 0, 0, 0, 0, 0]
  match k with
  | .rom => [t.rom.code, 32, 32, 0, 0, 0, 0]
  | .a => fields t.a
  | .b => fields t.b

/-- The result of a FROM_PART exchange whose data phase has ended (R66, R160, R161, R186). Building the result of a fetch
clears the overflow mark that it reports. -/
def endSending (o : Outcome) (s : State) : State :=
  match s.link.exchange.bind Exchange.source with
  | some (.entries k _ _) => sendResult o .none (bankFields s.tables k) s
  | some .notices =>
    let fields := [byte s.notices.queue.length, flagByte s.notices.overflow]
    sendResult o .none fields { s with notices := { s.notices with overflow := false } }
  | _ => sendResult o .none [] s

/-- The next data frame is built, or the data phase ends because it would be empty (R174, R15, R66, R92, R160, R180). A
record that did not fit in E lets no later record be sent, but for notices, where the next frame begins at the oldest
notice not yet carried (R159). -/
def buildNext (s : State) : State :=
  match s.link.exchange with
  | none => s
  | some x =>
    match x.source with
    | none => s
    | some src =>
      let recs := remainingRecords s src
      let f := fillFrame (x.expected - x.moved) [] 0 recs
      if x.closed || f.count == 0 then endSending (if recs.isEmpty then .ok else .truncated) s
      else
        { s with
          link := { s.link with
            state := .sending
            exchange := some { x with
              source := some (src.skip f.count)
              closed := f.closed == .noRoom && src != .notices }
            dataFrame := some { tag := x.tag, body := f.body } }
          notices := if src = .notices then { s.notices with carried := f.count } else s.notices }

/-- A FROM_PART request is taken: the state becomes SENDING and the first data frame is built (R172). -/
def startSending (src : RecordSource) (s : State) : State :=
  match s.link.exchange with
  | none => s
  | some x =>
    buildNext { s with link := { s.link with state := .sending, exchange := some { x with source := some src } } }

/-! ### Taking a request (R172) -/

/-- A request opens an exchange with its tag (R172). -/
def openExchange (tag op : Byte) (e : Nat) (s : State) : State :=
  { s with link := { s.link with
      exchange := some { tag := tag, op := op, expected := e, moved := 0, taken := 0, held := none, source := none
                         closed := false } } }

/-- A request of direction NONE is taken: E must be 0 (R172 check 2), then the owning block's checks and changes. -/
def takeNone (op : Op) (tag : Byte) (e : Word16) (act : State → State) (s : State) : State :=
  let s' := openExchange tag op.code e.toNat s
  if e = 0 then act s' else refuse .length s'

/-- A request with a data phase is taken: E must be at most 4096 (R172 check 2), then the owning block's checks. -/
def takeData (op : Op) (tag : Byte) (e : Word16) (act : State → State) (s : State) : State :=
  let s' := openExchange tag op.code e.toNat s
  if e.toNat ≤ 4096 then act s' else refuse .length s'

/-! ### Frames that end at the receiver (R169, R171) -/

/-- The receiver holds no partial frame any more. -/
def dropPartial (s : State) : State := { s with link := { s.link with partialFrame := none } }

/-- A request is held as the waiting request, replacing any earlier one (R175, log 11). -/
def holdWaiting (tag : Byte) (body : List Byte) (s : State) : State :=
  { s with link := { s.link with waiting := some { tag := tag, body := body } } }

/-- A damaged frame (R171): a RECEIVING exchange ends CORRUPT, any other state discards it. -/
def frameDamaged (s : State) : State :=
  match s.link.state with
  | .receiving => sendResult .corrupt .none [] s
  | .idle | .sending => s

/-- A good REQUEST frame ends (R171): taken while IDLE with no result in transmission, held while a result is in transmission,
and held with the end of the data phase in RECEIVING (at once, R173) and in SENDING (after the frame in transmission,
R174). `take` is the taking of this request under R172. -/
def goodRequest (tag : Byte) (body : List Byte) (take : State → State) (s : State) : State :=
  match s.link.result, s.link.state with
  | some _, _ => holdWaiting tag body s
  | none, .idle => take s
  | none, .receiving => holdWaiting tag body (sendResult .abandoned .none [] s)
  | none, .sending => holdWaiting tag body s

/-- A REQUEST frame with a good CRC ends; one whose body length is above 64 is damaged (R169). -/
def requestFrame (tag : Byte) (body : List Byte) (take : State → State) (s : State) : State :=
  if body.length ≤ 64 then goodRequest tag body take (dropPartial s) else frameDamaged (dropPartial s)

end Sys2Proof.Machine
end

