-- ==== Sys2Proof/Machine/LineRequests.lean ====
section
/-! DEFINITION. The requests of the line engines: LINE-SETUP and LINE-STOP (R126, R127). -/

namespace Sys2Proof.Machine

/-- The setup of a LINE-SETUP, if every field is in range (R126 check 1). -/
def parseSetup (rate order timeout faultLo faultHi : Byte) : Option (Rate × BitOrder × Nat × Nat) :=
  match rateOfCode rate, orderOfCode order with
  | some r, some o =>
    let ms := timeout.toNat
    let fault := unsigned16 faultLo faultHi
    if inRange 5 250 ms && inRange 10 1000 fault then some (r, o, ms, fault) else none
  | _, _ => none

/-- The line after a LINE-SETUP (R126): set up, IDLE, and its fault watch begun. -/
def Line.withSetup (l : Line) (r : Rate) (o : BitOrder) (ms fault : Nat) : Line :=
  { l with state := .idle, rate := r, order := o, replyTimeout := ms, faultTime := fault
           activeStretch := l.activeLevel, restStretch := false }

/-- The line after a LINE-STOP (R127). -/
def Line.stopped (l : Line) : Line :=
  { l with state := .off, driveEnable := false, activeStretch := false, restStretch := false }

/-- LINE-SETUP (R126). -/
def takeLineSetup (tag : Byte) (e : Word16) (params : List Byte) (s : State) : State :=
  takeNone .lineSetup tag e (fun s =>
    match params with
    | [n, rate, order, timeout, faultLo, faultHi] =>
      match lineOfByte n, parseSetup rate order timeout faultLo faultHi with
      | some l, some (r, o, ms, fault) =>
        if (s.line l).state = .off then okResult (s.setLine l ((s.line l).withSetup r o ms fault))
        else refuse .lineActive s
      | _, _ => refuse .badParam s
    | _ => refuse .badParam s) s

/-- LINE-STOP (R127). A line that is OFF is taken with no change. -/
def takeLineStop (tag : Byte) (e : Word16) (params : List Byte) (s : State) : State :=
  takeNone .lineStop tag e (fun s =>
    match params with
    | [n] =>
      match lineOfByte n with
      | some l => if (s.line l).state = .off then okResult s else okResult (s.setLine l (s.line l).stopped)
      | none => refuse .badParam s
    | _ => refuse .badParam s) s

/-- The meaning of LINE_SETUP. -/
def execLineSetup (tag : Byte) (e : Word16) (params : List Byte) (s : State) : Host.Outcome State Fault Refusal :=
  .next (requestFrame tag (requestBody .lineSetup e params) (takeLineSetup tag e params) s)

/-- The meaning of LINE_STOP. -/
def execLineStop (tag : Byte) (e : Word16) (params : List Byte) (s : State) : Host.Outcome State Fault Refusal :=
  .next (requestFrame tag (requestBody .lineStop e params) (takeLineStop tag e params) s)

end Sys2Proof.Machine
end

