-- ==== Sys2Proof/Machine/Reset.lean ====
section
/-! DEFINITION. The effect of RESTART and of a hardware reset on every block (R17, R70, R71, R93, R141, R153, R167, R181). -/

namespace Sys2Proof.Machine

/-- A loadable bank at RESTART (R71). -/
def Bank.restarted (k : Bank) : Bank :=
  match k.state with
  | .active | .pending | .standby => { k with state := .standby }
  | .loaded => k
  | .loading | .empty => Bank.emptyBank

/-- The banks at RESTART (R71). -/
def Tables.restarted (t : Tables) : Tables :=
  { rom := .active, a := t.a.restarted, b := t.b.restarted, cursor := none }

/-- What both resets do alike, given the banks and the link rate they leave. The pins PLn-D keep their levels (log 7), the
free values go on being counted, and the commands that wait go on waiting. The latch of a LATCHED alert line is cleared, as R167
says; R140 says that a reset leaves it as it is (DESIGN CHOICE, log 24). -/
def resetAll (t : Tables) (rate : LinkRate) (s : State) : State :=
  { timeBase := 0, params := .defaults, link := .reset rate, tables := t
    zones := Vector.replicate 24 none, dueQueue := [], current := none
    slots := Vector.replicate 96 none, lines := s.lines.map fun l => .reset l.activeLevel
    notices := .reset, alertA := .reset, alertB := .reset, freeCount := s.freeCount, pending := s.pending }

/-- RESTART takes effect (R181): the link keeps its rate and the banks what R71 keeps. -/
def restartEffect (s : State) : State := resetAll s.tables.restarted s.link.rate s

end Sys2Proof.Machine
end

