-- ==== Sys2Proof/Machine/LinkRequests.lean ====
section
/-! DEFINITION. The requests of the link controller and the parameter store: IDENTIFY, READ-STATUS, PARAM-SET, PARAM-GET, RESTART (R178 to R181). -/

namespace Sys2Proof.Machine

/-- IDENTIFY (R179). -/
def takeIdentify (tag : Byte) (e : Word16) (params : List Byte) (s : State) : State :=
  takeData .identify tag e (fun s =>
    match params with
    | [] => startSending (.identity false) s
    | _ => refuse .badParam s) s

/-- READ-STATUS (R180). -/
def takeReadStatus (tag : Byte) (e : Word16) (params : List Byte) (s : State) : State :=
  takeData .readStatus tag e (fun s =>
    match params with
    | [] => startSending (.status 0) s
    | _ => refuse .badParam s) s

/-- The operation fields of PARAM-SET and PARAM-GET (R186). -/
def paramFields (p : Byte) (value : Nat) : List Byte := p :: bytes16 value

/-- PARAM-SET (R178). -/
def takeParamSet (tag : Byte) (e : Word16) (params : List Byte) (s : State) : State :=
  takeNone .paramSet tag e (fun s =>
    match params with
    | [p, lo, hi] =>
      match (paramOfCode p).bind fun q => s.params.write q (unsigned16 lo hi) with
      | some ps => okResult { s with params := ps } (paramFields p (unsigned16 lo hi))
      | none => refuse .badParam s
    | _ => refuse .badParam s) s

/-- PARAM-GET (R178). -/
def takeParamGet (tag : Byte) (e : Word16) (params : List Byte) (s : State) : State :=
  takeNone .paramGet tag e (fun s =>
    match params with
    | [p] =>
      match paramOfCode p with
      | some q => okResult s (paramFields p (s.params.get q))
      | none => refuse .badParam s
    | _ => refuse .badParam s) s

/-- RESTART (R181): its result OK is sent first, and the restart takes effect when that has been transmitted. -/
def takeRestart (tag : Byte) (e : Word16) (params : List Byte) (s : State) : State :=
  takeNone .restart tag e (fun s =>
    match params with
    | [] => okResult { s with link := { s.link with restartPending := true } }
    | _ => refuse .badParam s) s

/-- The meaning of IDENTIFY. -/
def execIdentify (tag : Byte) (e : Word16) (params : List Byte) (s : State) : Host.Outcome State Fault Refusal :=
  .next (requestFrame tag (requestBody .identify e params) (takeIdentify tag e params) s)

/-- The meaning of READ_STATUS. -/
def execReadStatus (tag : Byte) (e : Word16) (params : List Byte) (s : State) : Host.Outcome State Fault Refusal :=
  .next (requestFrame tag (requestBody .readStatus e params) (takeReadStatus tag e params) s)

/-- The meaning of PARAM_SET. -/
def execParamSet (tag : Byte) (e : Word16) (params : List Byte) (s : State) : Host.Outcome State Fault Refusal :=
  .next (requestFrame tag (requestBody .paramSet e params) (takeParamSet tag e params) s)

/-- The meaning of PARAM_GET. -/
def execParamGet (tag : Byte) (e : Word16) (params : List Byte) (s : State) : Host.Outcome State Fault Refusal :=
  .next (requestFrame tag (requestBody .paramGet e params) (takeParamGet tag e params) s)

/-- The meaning of RESTART. -/
def execRestart (tag : Byte) (e : Word16) (params : List Byte) (s : State) : Host.Outcome State Fault Refusal :=
  .next (requestFrame tag (requestBody .restart e params) (takeRestart tag e params) s)

end Sys2Proof.Machine
end

