-- ==== Sys2Proof/Machine/NoticeRequests.lean ====
section
/-! DEFINITION. The requests of the notice queue and the alert router: FETCH-NOTICES, ROUTE-SET, CLEAR-ALERT (R159, R165, R166). -/

namespace Sys2Proof.Machine

/-- FETCH-NOTICES (R159). -/
def takeFetchNotices (tag : Byte) (e : Word16) (params : List Byte) (s : State) : State :=
  takeData .fetchNotices tag e (fun s =>
    match params with
    | [] => startSending .notices s
    | _ => refuse .badParam s) s

/-- Acts on the alert line of a code: 0 A, 1 B (R184); none for any other byte. -/
def onAlertLine (n : Byte) (act : AlertLine → AlertLine) (s : State) : Option State :=
  match n.toNat with
  | 0 => some { s with alertA := act s.alertA }
  | 1 => some { s with alertB := act s.alertB }
  | _ => none

/-- ROUTE-SET (R165). Bit 7 of the source byte must be 0 (R184). -/
def takeRouteSet (tag : Byte) (e : Word16) (params : List Byte) (s : State) : State :=
  takeNone .routeSet tag e (fun s =>
    match params with
    | [n, mode, set] =>
      match alertModeOfCode mode with
      | some m =>
        if set.toNat < 128 then
          match onAlertLine n (fun _ => { mode := m, routed := set.setWidth 7, latch := false }) s with
          | some s' => okResult s'
          | none => refuse .badParam s
        else refuse .badParam s
      | none => refuse .badParam s
    | _ => refuse .badParam s) s

/-- CLEAR-ALERT (R166). A LEVEL line is taken with no change. -/
def takeClearAlert (tag : Byte) (e : Word16) (params : List Byte) (s : State) : State :=
  takeNone .clearAlert tag e (fun s =>
    match params with
    | [n] =>
      match onAlertLine n (fun a => if a.mode = .latched then { a with latch := false } else a) s with
      | some s' => okResult s'
      | none => refuse .badParam s
    | _ => refuse .badParam s) s

/-- The meaning of FETCH_NOTICES. -/
def execFetchNotices (tag : Byte) (e : Word16) (params : List Byte) (s : State) : Host.Outcome State Fault Refusal :=
  .next (requestFrame tag (requestBody .fetchNotices e params) (takeFetchNotices tag e params) s)

/-- The meaning of ROUTE_SET. -/
def execRouteSet (tag : Byte) (e : Word16) (params : List Byte) (s : State) : Host.Outcome State Fault Refusal :=
  .next (requestFrame tag (requestBody .routeSet e params) (takeRouteSet tag e params) s)

/-- The meaning of CLEAR_ALERT. -/
def execClearAlert (tag : Byte) (e : Word16) (params : List Byte) (s : State) : Host.Outcome State Fault Refusal :=
  .next (requestFrame tag (requestBody .clearAlert e params) (takeClearAlert tag e params) s)

end Sys2Proof.Machine
end

