-- ==== Sys2Proof/Machine/Conditioning.lean ====
section
/-! DEFINITION. The reading conditioner: widening, scaling, calibration and acceptance of the codes of a GOOD reply to READ (R94 to R102). -/

namespace Sys2Proof.Machine

/-- The width b of a raw code (R94). -/
def ResClass.width : ResClass → Nat
  | .c8 => 8
  | .c12 => 12
  | .c16 => 16

/-- The wide code of a raw code of width `b` (R95). For b = 16 no bit is unreported and the code is unchanged. -/
def widen (cls : ResClass) (rule : Widening) (r : Nat) : Nat :=
  match cls with
  | .c16 => r
  | .c8 | .c12 =>
    let b := cls.width
    r * 2 ^ (16 - b) +
      match rule with
      | .zero => 0
      | .ones => 2 ^ (16 - b) - 1
      | .repeatTop => r / 2 ^ (b - (16 - b))
      | .mid => 2 ^ (15 - b)

/-- The scaled temperature of a wide code (R96). -/
def scaleTemp (w : Nat) : Int := -4000 + ((w * 12500 / 65536 : Nat) : Int)

/-- The scaled humidity of a wide code (R97). -/
def scaleHumidity (w : Nat) : Nat := w * 10000 / 65535

/-- The calibrated humidity, clamped to 0 to 10000 (R99). -/
def calibrateHumidity (scaled : Nat) (offset : Int) : Nat := (min (max ((scaled : Int) + offset) 0) 10000).toNat

/-- The range test (R100). -/
def inReadingRange (t : Int) : Bool := -4000 ≤ t && t ≤ 8499

/-- The step test (R101): it applies to a slot whose accepted reading is fresh. -/
def passesStepTest (s : State) (prior : Option Reading) (t : Int) : Bool :=
  match prior with
  | some rd => !fresh s rd || (t - rd.temp).natAbs ≤ s.params.stepLimit
  | none => true

/-- The calibrated reading of a slot's raw codes (R94 to R99), stamped with the time base. -/
def calibrate (s : State) (r : Slot) (tempCode : Nat) (rhCode : Option Nat) : Reading :=
  { temp := scaleTemp (widen r.cls r.rule tempCode) + r.tempOffset
    rh := match r.kind with
      | .air => rhCode.map fun h => calibrateHumidity (scaleHumidity (widen r.cls r.rule h)) r.rhOffset
      | .surface => none
    stamp := s.timeBase }

/-- The decision of the conditioner (R102). -/
def plausible (s : State) (r : Slot) (rd : Reading) : Bool :=
  inReadingRange rd.temp && passesStepTest s r.reading rd.temp

end Sys2Proof.Machine
end

