-- ==== Sys2Proof/Machine/ProbeTable.lean ====
section
/-! DEFINITION. The probe table's taking of an outcome (section 4.5), the heater controller within it (chapter 6), the misses of a faulted line (R138) and the recomputation of a slot's pace (R150 to R152). -/

namespace Sys2Proof.Machine

/-- What a line engine reports of a completed transaction (section 4.5, R134). -/
inductive Report where
  /-- GOOD, command READ, with the raw temperature code and, for an air slot, the raw humidity code. -/
  | goodRead (tempCode : Nat) (rhCode : Option Nat)
  /-- GOOD, command HEAT. -/
  | goodHeat
  /-- Any other outcome class, either command. -/
  | miss (o : ProbeOutcome)
deriving DecidableEq, Repr

/-! ### The heater controller (R109 to R114) -/

/-- An air member that serves its zone in the allowance rule: a contributor that is not heat-armed (R111). -/
def serves (s : State) (m : SlotId) : Bool :=
  (contribution s m).isSome && match s.slot m with
    | some r => r.armed.isNone
    | none => false

/-- The blocking zone of the allowance rule for a slot: the lowest-numbered non-IDLE zone that names it in its air list
and has no other serving member; none when the rule holds (R111). -/
def blockingZone (s : State) (i : SlotId) : Option ZoneId :=
  allZones.find? fun z => match s.zone z with
    | some r => r.defn.air.contains i && !(r.defn.air.any fun m => m != i && serves s m)
    | none => false

/-- The attempt to arm a saturated, unarmed slot (R110 to R114). -/
def tryArm (i : SlotId) (r : Slot) (s : State) : State :=
  match blockingZone s i with
  | none => s.setSlot i (some { r with armed := some .rule })
  | some z =>
    if r.deferred then s
    else emit (.heatDeferred i z) (s.setSlot i (some { r with deferred := true }))

/-- The run count of a saturated reading (R109). -/
def Slot.saturated (r : Slot) : Slot := { r with run := if r.run < 15 then r.run + 1 else r.run }

/-- The heater fields after an unsaturated reading: an arming by the rule is withdrawn, a forced one stays (R109, R120). -/
def Slot.unsaturated (r : Slot) : Slot :=
  { r with run := 0, deferred := false, armed := if r.armed = some .rule then none else r.armed }

/-- The heater controller sees an accepted reading's humidity of a LIVE air slot (R109, R110). -/
def heaterSees (i : SlotId) (humidity : Nat) (s : State) : State :=
  match s.slot i with
  | none => s
  | some r =>
    if s.params.satLimit ≤ humidity then
      if r.armed.isNone ∧ s.params.satCount ≤ r.saturated.run then
        tryArm i r.saturated (s.setSlot i (some r.saturated))
      else s.setSlot i (some r.saturated)
    else s.setSlot i (some r.unsaturated)

/-! ### Taking an outcome -/

/-- The count and last outcome after a miss (R86 steps 1 and 2). -/
def Slot.missed (r : Slot) (o : ProbeOutcome) : Slot :=
  { r with misses := if r.misses < 15 then r.misses + 1 else r.misses, lastOutcome := o }

/-- The slot becomes LOST (R86 step 3). -/
def Slot.lost (r : Slot) : Slot := { r.clearHeater with state := .lost }

/-- A miss (R86): the count, the last outcome and, at MISS_LIMIT, the change to LOST with its notice (R90) and its onset of
LOST_ANY (R91). -/
def takeMiss (i : SlotId) (o : ProbeOutcome) (s : State) : State :=
  match s.slot i with
  | none => s
  | some r =>
    if (r.state = .pending ∨ r.state = .live) ∧ s.params.missLimit ≤ (r.missed o).misses then
      onset .lostAny (emit (.probeState i r.state .lost o) (s.setSlot i (some (r.missed o).lost)))
    else s.setSlot i (some (r.missed o))

/-- The state of a slot after an accepted reading (R84). -/
def ProbeState.afterReading : ProbeState → ProbeState
  | .pending | .lost => .live
  | st => st

/-- The slot after an accepted reading (R84). -/
def Slot.withReading (r : Slot) (rd : Reading) : Slot :=
  { r with reading := some rd, misses := 0, lastOutcome := .good, state := r.state.afterReading }

/-- The PROBE_STATE notice of an accepted reading that changed the state (R90). -/
def noteChange (i : SlotId) (old new : ProbeState) (s : State) : State :=
  if new = old then s else emit (.probeState i old new .good) s

/-- An accepted reading (R84): stored, the misses reset, a PENDING or LOST slot LIVE with its notice, and the heater
controller shown the humidity of a LIVE air slot. -/
def acceptReading (i : SlotId) (r : Slot) (rd : Reading) (s : State) : State :=
  let r' := r.withReading rd
  let s1 := noteChange i r.state r'.state (s.setSlot i (some r'))
  match rd.rh with
  | some h => if r'.state = .live ∧ r'.kind = .air then heaterSees i h s1 else s1
  | none => s1

/-- A GOOD reply to READ: conditioned, then accepted or counted as an IMPLAUSIBLE miss (R84, R85). -/
def takeGoodRead (i : SlotId) (tempCode : Nat) (rhCode : Option Nat) (s : State) : State :=
  match s.slot i with
  | none => s
  | some r =>
    let rd := calibrate s r tempCode rhCode
    if plausible s r rd then acceptReading i r rd s else takeMiss i .implausible s

/-- The moment at which a heat cycle that begins now ends (R88). -/
def heatEndTime (s : State) : Time :=
  s.timeBase + BitVec.ofNat 32 ((s.params.heatTime + s.params.recoveryTime) * 10)

/-- The reading, misses and last outcome after a GOOD heat reply (R81, R88). -/
def Slot.heatGood (r : Slot) : Slot := { r with reading := none, misses := 0, lastOutcome := .good }

/-- The slot enters HEATING until `t` (R88). -/
def Slot.heatingUntil (r : Slot) (t : Time) : Slot := { r.clearHeater with state := .heating, heatEnd := some t }

/-- A GOOD reply to a heat command (R88), on a HELD slot under R81. -/
def takeGoodHeat (i : SlotId) (s : State) : State :=
  match s.slot i with
  | none => s
  | some r =>
    if r.state = .held then s.setSlot i (some r.heatGood)
    else
      emit (.probeState i r.state .heating .good) (s.setSlot i (some (r.heatGood.heatingUntil (heatEndTime s))))

/-- The probe table takes a report as one event on the slot (R83). -/
def takeReport (i : SlotId) : Report → State → State
  | .goodRead t h => takeGoodRead i t h
  | .goodHeat => takeGoodHeat i
  | .miss o => takeMiss i o

/-- Writes a slot's last poll time (R134 step 1, R138 step 1). -/
def writeLastPoll (i : SlotId) (t : Time) (s : State) : State :=
  match s.slot i with
  | some r => s.setSlot i (some { r with lastPoll := t })
  | none => s

/-- An outcome is handed on: last poll time, the probe table's event, advancing (R134, R138). -/
def handOutcome (i : SlotId) (lastPoll : Time) (rep : Report) (s : State) : State :=
  advance i (takeReport i rep (writeLastPoll i lastPoll s))

/-- A LINE_FAULT miss in place of a poll (R138). -/
def faultMiss (i : SlotId) (s : State) : State := handOutcome i s.timeBase (.miss .lineFault) s

/-- The LINE_FAULT miss that a due schedulable slot of a line in FAULT is given at once (R138). -/
def missIfFaulted (i : SlotId) (s : State) : State :=
  match s.slot i with
  | some r => if r.schedulable && r.due && onFaultLine s i then faultMiss i s else s
  | none => s

/-! ### Recomputation (R150 to R152) -/

/-- The transaction has not completed yet (section 7.4). -/
def Txn.inFlight (t : Txn) : Bool := t.phase == .sending || t.phase == .awaiting || t.phase == .receiving

/-- A transaction of the slot is in flight on its line. -/
def pollInFlight (s : State) (i : SlotId) (r : Slot) : Bool :=
  match (s.line r.line).state with
  | .busy t => t.slot == i && t.inFlight
  | _ => false

/-- The slot's outcome was taken in this tick and its next poll has not begun: an outcome and a recomputation now reach the slot near
the same moment (R151; DESIGN CHOICE, log 23). -/
def newlyAdvanced (s : State) (i : SlotId) (r : Slot) : Bool :=
  r.advancedAt == some s.timeBase && !pollInFlight s i r

/-- The recomputation of the slot advances it again: its pace goes from FAST to SETTLED with its outcome taken just before (R151). With
POLL_FAST equal to POLL_SETTLED no next-due time changes (R152). -/
def advancesAgain (s : State) (i : SlotId) (r : Slot) : Bool :=
  r.pace == .fast && paceOf s i r == .settled && s.params.pollFast != s.params.pollSettled && newlyAdvanced s i r

/-- The earlier of a slot's next-due time and its last poll time plus POLL_FAST, both counted from the last poll time (R150; DEDUCED,
log 12). With POLL_FAST equal to POLL_SETTLED no next-due time changes (R152). -/
def Slot.earlierDue (r : Slot) (p : Params) : Time :=
  if p.pollFast ≠ p.pollSettled ∧ p.pollFast < age r.nextDue r.lastPoll then r.lastPoll + BitVec.ofNat 32 p.pollFast
  else r.nextDue

/-- The slot whose pace goes from SETTLED to FAST (R150). A slot that is already due is left due. -/
def Slot.pulledEarlier (r : Slot) (now : Time) (p : Params) : Slot :=
  { r with pace := .fast, nextDue := r.earlierDue p, due := r.due || !liesAhead now (r.earlierDue p) }

/-- An engine recomputes a slot (R150). On a line in FAULT the slot that becomes due receives its miss (R138). A pace that goes from
FAST to SETTLED keeps the next-due time, but for a slot whose outcome was taken just before: that slot ends where the other order of
the two events ends, at its last poll time plus POLL_SETTLED (R151). -/
def recompute (i : SlotId) (s : State) : State :=
  match s.slot i with
  | none => s
  | some r =>
    if r.schedulable then
      if r.pace = .settled ∧ paceOf s i r = .fast then
        missIfFaulted i (s.setSlot i (some (r.pulledEarlier s.timeBase s.params)))
      else if advancesAgain s i r then missIfFaulted i (advance i s)
      else s.setSlot i (some { r with pace := paceOf s i r })
    else s

/-- The engines recompute the members that an event names (R150). Members whose line is in FAULT may receive misses in
it, in an open order (R138, log 9). -/
def recomputeMembers (ms : List SlotId) (s : State) : State :=
  inFreeOrder recompute (ms.filter fun m => onFaultLine s m)
    ((ms.filter fun m => !onFaultLine s m).foldl (fun s m => recompute m s) s)

end Sys2Proof.Machine
end

