-- ==== Sys2Proof/Machine/ProbeRequests.lean ====
section
/-! DEFINITION. The requests of the probe table and the heater controller: PROBE-ENROL, PROBE-WITHDRAW, PROBE-HOLD, PROBE-RELEASE, READ-PROBES, HEAT-PROBE (R76 to R82, R92, R119). -/

namespace Sys2Proof.Machine

/-- The slot record that a PROBE-ENROL writes (R77, R149), if every field is in range (R76 check 1). For a SURFACE slot the RH
offset is neither checked nor stored. -/
def parseEnrolment (now : Time) (line address kind cls rule : Byte) (tOff rhOff : Int) : Option Slot :=
  match lineOfByte line, kindOfCode kind, classOfCode cls, wideningOfCode rule with
  | some l, some k, some c, some w =>
    if inRange 1 62 address.toNat && (-500 ≤ tOff && tOff ≤ 500) && (k == .surface || (-1000 ≤ rhOff && rhOff ≤ 1000)) then
      some { state := .pending, line := l, address := address.toNat, kind := k, cls := c, rule := w
             tempOffset := tOff, rhOffset := if k = .air then rhOff else 0
             reading := none, misses := 0, lastOutcome := .none, nextDue := now, lastPoll := now, pace := .fast
             due := true, advancedAt := none, run := 0, armed := none, deferred := false, heatEnd := none }
    else none
  | _, _, _, _ => none

/-- The slot enrolled at a line and address, if there is one (R73, R76 check 3). -/
def slotAt (s : State) (l : LineId) (address : Nat) : Option SlotId :=
  allSlots.find? fun i => match s.slot i with
    | some r => r.line == l && r.address == address
    | none => false

/-- PROBE-ENROL (R76, R77). On a line in FAULT the new slot receives its miss at once (R138, R149). -/
def takeProbeEnrol (tag : Byte) (e : Word16) (params : List Byte) (s : State) : State :=
  takeNone .probeEnrol tag e (fun s =>
    match params with
    | [n, line, address, kind, cls, rule, tLo, tHi, rhLo, rhHi] =>
      match slotOfByte n, parseEnrolment s.timeBase line address kind cls rule (signed16 tLo tHi) (signed16 rhLo rhHi) with
      | some i, some r =>
        if (s.slot i).isSome then refuse .notVacant s
        else match slotAt s r.line r.address with
          | some j => refuse .duplicate s [byte j.val]
          | none => okResult (missIfFaulted i (s.setSlot i (some r)))
      | _, _ => refuse .badParam s
    | _ => refuse .badParam s) s

/-- The line of a withdrawn slot: a transaction in flight for the slot that has not completed is orphaned (R79, R135). -/
def Line.orphaning (i : SlotId) (l : Line) : Line :=
  match l.state with
  | .busy t => if t.slot = i ∧ t.inFlight = true then { l with state := .busy { t with orphan := true } } else l
  | _ => l

/-- PROBE-WITHDRAW (R78, R79). -/
def takeProbeWithdraw (tag : Byte) (e : Word16) (params : List Byte) (s : State) : State :=
  takeNone .probeWithdraw tag e (fun s =>
    match params with
    | [n] =>
      match slotOfByte n with
      | some i =>
        match s.slot i with
        | none => refuse .vacant s
        | some r =>
          match zonesNaming s i with
          | z :: _ => refuse .inUse s [byte z.val]
          | [] => okResult ((s.setLine r.line ((s.line r.line).orphaning i)).setSlot i none)
      | none => refuse .badParam s
    | _ => refuse .badParam s) s

/-- PROBE-HOLD (R80). -/
def takeProbeHold (tag : Byte) (e : Word16) (params : List Byte) (s : State) : State :=
  takeNone .probeHold tag e (fun s =>
    match params with
    | [n] =>
      match slotOfByte n with
      | some i =>
        match s.slot i with
        | none => refuse .vacant s
        | some r =>
          if r.state = .heating then refuse .busy s
          else if r.state = .held then okResult s
          else okResult (s.setSlot i (some { r.clearHeater with state := .held }))
      | none => refuse .badParam s
    | _ => refuse .badParam s) s

/-- The slot that becomes PENDING and due at once, by a release or a heat end (R82, R89, R149). -/
def Slot.madePending (r : Slot) (now : Time) : Slot :=
  { r.withNextDue now now with state := .pending, pace := .fast }

/-- PROBE-RELEASE (R82). On a line in FAULT the slot receives its miss at once (R138, R149). -/
def takeProbeRelease (tag : Byte) (e : Word16) (params : List Byte) (s : State) : State :=
  takeNone .probeRelease tag e (fun s =>
    match params with
    | [n] =>
      match slotOfByte n with
      | some i =>
        match s.slot i with
        | some r =>
          if r.state = .held then
            okResult (missIfFaulted i (s.setSlot i (some { r.madePending s.timeBase with misses := 0 })))
          else refuse .notHeld s
        | none => refuse .notHeld s
      | none => refuse .badParam s
    | _ => refuse .badParam s) s

/-- READ-PROBES (R92). -/
def takeReadProbes (tag : Byte) (e : Word16) (params : List Byte) (s : State) : State :=
  takeData .readProbes tag e (fun s =>
    match params with
    | [first, count] =>
      if first.toNat ≤ 95 ∧ count ≠ 0 then
        startSending (.probes first.toNat (min (first.toNat + count.toNat) 96)) s
      else refuse .badParam s
    | _ => refuse .badParam s) s

/-- HEAT-PROBE (R119). -/
def takeHeatProbe (tag : Byte) (e : Word16) (params : List Byte) (s : State) : State :=
  takeNone .heatProbe tag e (fun s =>
    match params with
    | [n] =>
      match slotOfByte n with
      | some i =>
        match s.slot i with
        | none => refuse .vacant s
        | some r =>
          if r.kind = .surface then refuse .wrongKind s
          else if r.state = .heating ∨ r.state = .held then refuse .busy s
          else if r.armed.isSome then okResult s
          else okResult (s.setSlot i (some { r with armed := some .forced }))
      | none => refuse .badParam s
    | _ => refuse .badParam s) s

/-- The meaning of PROBE_ENROL. -/
def execProbeEnrol (tag : Byte) (e : Word16) (params : List Byte) (s : State) : Host.Outcome State Fault Refusal :=
  .next (requestFrame tag (requestBody .probeEnrol e params) (takeProbeEnrol tag e params) s)

/-- The meaning of PROBE_WITHDRAW. -/
def execProbeWithdraw (tag : Byte) (e : Word16) (params : List Byte) (s : State) : Host.Outcome State Fault Refusal :=
  .next (requestFrame tag (requestBody .probeWithdraw e params) (takeProbeWithdraw tag e params) s)

/-- The meaning of PROBE_HOLD. -/
def execProbeHold (tag : Byte) (e : Word16) (params : List Byte) (s : State) : Host.Outcome State Fault Refusal :=
  .next (requestFrame tag (requestBody .probeHold e params) (takeProbeHold tag e params) s)

/-- The meaning of PROBE_RELEASE. -/
def execProbeRelease (tag : Byte) (e : Word16) (params : List Byte) (s : State) : Host.Outcome State Fault Refusal :=
  .next (requestFrame tag (requestBody .probeRelease e params) (takeProbeRelease tag e params) s)

/-- The meaning of READ_PROBES. -/
def execReadProbes (tag : Byte) (e : Word16) (params : List Byte) (s : State) : Host.Outcome State Fault Refusal :=
  .next (requestFrame tag (requestBody .readProbes e params) (takeReadProbes tag e params) s)

/-- The meaning of HEAT_PROBE. -/
def execHeatProbe (tag : Byte) (e : Word16) (params : List Byte) (s : State) : Host.Outcome State Fault Refusal :=
  .next (requestFrame tag (requestBody .heatProbe e params) (takeHeatProbe tag e params) s)

end Sys2Proof.Machine
end

