-- ==== Sys2Proof/Machine/TableRequests.lean ====
section
/-! DEFINITION. The requests of the saturation table unit: TABLE-BEGIN, TABLE-LOAD with the bytes of its data phase, TABLE-COMMIT, TABLE-SELECT, TABLE-READ (R54 to R66, R173). -/

namespace Sys2Proof.Machine

/-! ### Banks by name -/

/-- The loadable bank of a name; ROM is not loadable. -/
def Tables.loadable (t : Tables) : BankId → Option Bank
  | .rom => none
  | .a => some t.a
  | .b => some t.b

/-- Writes a loadable bank; ROM is not changed by any request (R51). -/
def Tables.setBank (t : Tables) (k : BankId) (b : Bank) : Tables :=
  match k with
  | .rom => t
  | .a => { t with a := b }
  | .b => { t with b := b }

/-- A bank that is LOADING becomes EMPTY (R54 step 1). -/
def Bank.abandonLoad (b : Bank) : Bank := if b.state = .loading then Bank.emptyBank else b

/-- A bank begun for `n` entries (R54 steps 2 to 5). -/
def Bank.begun (n : Nat) : Bank :=
  { state := .loading
    contents := some { declared := n, entries := [], partialTemp := none, check1 := 0xFFFF, check2 := 0xFFFF } }

/-- The tables after a TABLE-BEGIN that is taken (R54). -/
def Tables.begin (t : Tables) (k : BankId) (n : Nat) : Tables :=
  { { t with a := t.a.abandonLoad, b := t.b.abandonLoad }.setBank k (Bank.begun n) with
    cursor := some { bank := k, entry := 0, position := .temperature } }

/-! ### The load (R55 to R58) -/

/-- The two bytes of an element update the half-check of the entry's half (R57). -/
def BankContents.check (c : BankContents) (entry : Nat) (lo hi : Byte) : BankContents :=
  if entry < 32 then { c with check1 := crc16From c.check1 [lo, hi] } else { c with check2 := crc16From c.check2 [lo, hi] }

/-- An element is written into a LOADING bank at the cursor (R56, R57). -/
def Tables.writeElement (t : Tables) (lo hi : Byte) : Tables :=
  match t.cursor with
  | none => t
  | some cur =>
    match t.loadable cur.bank with
    | none => t
    | some b =>
      match b.contents with
      | none => t
      | some c =>
        let c' := c.check cur.entry lo hi
        match cur.position, c.partialTemp with
        | .pressure, some temp =>
          let c'' := { c' with
            entries := c.entries ++ [{ temp := temp, pressure := unsigned16 lo hi }], partialTemp := none }
          if c''.entries.length = c.declared then
            { t.setBank cur.bank { state := .loaded, contents := some c'' } with cursor := none }
          else
            { t.setBank cur.bank { b with contents := some c'' } with
              cursor := some { cur with entry := cur.entry + 1, position := .temperature } }
        | _, _ =>
          { t.setBank cur.bank { b with contents := some { c' with partialTemp := some (signed16 lo hi) } } with
            cursor := some { cur with position := .pressure } }

/-- How the bytes of a frame leave the data phase. -/
inductive LoadEnd where
  /-- Every byte was taken. -/
  | allTaken
  /-- A byte arrived beyond E (R58). -/
  | beyondE
  /-- A byte within E arrived after the last entry was complete (R58). -/
  | tableFull
deriving DecidableEq, Repr

/-- The bytes of a DATA frame are handed to the table unit one by one (R55, R58, R173). -/
def loadBytes (t : Tables) (x : Exchange) : List Byte → Tables × Exchange × LoadEnd
  | [] => (t, x, .allTaken)
  | b :: bs =>
    if x.expected ≤ x.taken then (t, x, .beyondE)
    else if t.cursor.isNone then (t, x, .tableFull)
    else
      match x.held with
      | none => loadBytes t { x with held := some b, taken := x.taken + 1 } bs
      | some lo =>
        loadBytes (t.writeElement lo b) { x with held := none, taken := x.taken + 1, moved := x.moved + 2 } bs

/-- A DATA frame that carries the open request's tag is consumed in RECEIVING (R173, R58). -/
def consumeData (body : List Byte) (s : State) : State :=
  match s.link.exchange with
  | none => s
  | some x =>
    let r := loadBytes s.tables x body
    let s' := { s with tables := r.1, link := { s.link with exchange := some r.2.1 } }
    match r.2.2 with
    | .beyondE => sendResult .halted .none [] s'
    | .tableFull => sendResult .halted .tableFull [] s'
    | .allTaken =>
      if r.2.1.expected ≤ r.2.1.taken then
        sendResult (if r.2.1.held.isSome then .short else .ok) .none [] s'
      else s'

/-! ### Requests -/

/-- TABLE-BEGIN (R54). -/
def takeTableBegin (tag : Byte) (e : Word16) (params : List Byte) (s : State) : State :=
  takeNone .tableBegin tag e (fun s =>
    match params with
    | [n, count] =>
      match (bankOfCode n).bind fun k => (s.tables.loadable k).map fun b => (k, b) with
      | some (k, b) =>
        if inRange 2 64 count.toNat then
          if b.state = .active ∨ b.state = .pending then refuse .busy s
          else okResult { s with tables := s.tables.begin k count.toNat }
        else refuse .badParam s
      | none => refuse .badParam s
    | _ => refuse .badParam s) s

/-- TABLE-LOAD (R55): with a bank LOADING the state becomes RECEIVING; an E of 0 is reached at once. A body that is too long is
refused BAD_PARAM even while no bank is LOADING (DESIGN CHOICE, log 26). -/
def takeTableLoad (tag : Byte) (e : Word16) (params : List Byte) (s : State) : State :=
  takeData .tableLoad tag e (fun s =>
    match params with
    | [] =>
      if s.tables.cursor.isNone then refuse .notLoading s
      else if e = 0 then okResult s
      else { s with link := { s.link with state := .receiving } }
    | _ => refuse .badParam s) s

/-- The lowest index at which the order test fails, from an entry whose successor has index `i` on (R61 step 3). -/
def orderFailureFrom (e : Entry) : Nat → List Entry → Option Nat
  | _, [] => none
  | i, n :: rest => if e.temp < n.temp ∧ e.pressure < n.pressure then orderFailureFrom n (i + 1) rest else some i

/-- The lowest entry index at which the order test fails (R61 step 3). -/
def orderFailure : List Entry → Option Nat
  | [] => none
  | e :: rest => if e.pressure = 0 then some 0 else orderFailureFrom e 1 rest

/-- A bank becomes PENDING, and is swapped in at once if the evaluator is idle (R62, R63, R64). -/
def makePending (k : BankId) (s : State) : State :=
  let s' := { s with tables := s.tables.setState k .pending }
  if s.current.isNone then swapPending s' else s'

/-- The state of a bank after the request, as a result carries it (R62, R63, R186). -/
def stateField (k : BankId) (s : State) : List Byte := [(s.tables.stateOf k).code]

/-- TABLE-COMMIT (R60 to R62). -/
def takeTableCommit (tag : Byte) (e : Word16) (params : List Byte) (s : State) : State :=
  takeNone .tableCommit tag e (fun s =>
    match params with
    | [n, lo1, hi1, lo2, hi2] =>
      match (bankOfCode n).bind fun k => (s.tables.loadable k).map fun b => (k, b) with
      | some (k, b) =>
        match b.state, b.contents with
        | .loaded, some c =>
          if s.tables.pendingBank.isSome then refuse .busy s
          else if word16 lo1 hi1 ≠ c.check1 then refuse .checkFirst s (bytes16 c.check1.toNat ++ bytes16 c.check2.toNat)
          else if word16 lo2 hi2 ≠ c.check2 then refuse .checkSecond s (bytes16 c.check1.toNat ++ bytes16 c.check2.toNat)
          else match orderFailure c.entries with
            | some i => refuse .order s [byte i]
            | none =>
              let s' := makePending k s
              okResult s' (stateField k s')
        | _, _ => refuse .incomplete s
      | none => refuse .badParam s
    | _ => refuse .badParam s) s

/-- TABLE-SELECT (R63). -/
def takeTableSelect (tag : Byte) (e : Word16) (params : List Byte) (s : State) : State :=
  takeNone .tableSelect tag e (fun s =>
    match params with
    | [n] =>
      match bankOfCode n with
      | some k =>
        match s.tables.stateOf k with
        | .active | .pending => okResult s (stateField k s)
        | .standby =>
          if s.tables.pendingBank.isSome then refuse .busy s
          else
            let s' := makePending k s
            okResult s' (stateField k s')
        | .empty | .loading | .loaded => refuse .notValid s
      | none => refuse .badParam s
    | _ => refuse .badParam s) s

/-- TABLE-READ (R66). -/
def takeTableRead (tag : Byte) (e : Word16) (params : List Byte) (s : State) : State :=
  takeData .tableRead tag e (fun s =>
    match params with
    | [n, first, count] =>
      match bankOfCode n with
      | some k =>
        if first.toNat ≤ 63 ∧ count ≠ 0 then
          startSending
            (.entries k first.toNat (min (first.toNat + count.toNat) (s.tables.entriesOf k).length)) s
        else refuse .badParam s
      | none => refuse .badParam s
    | _ => refuse .badParam s) s

/-- The meaning of TABLE_BEGIN. -/
def execTableBegin (tag : Byte) (e : Word16) (params : List Byte) (s : State) : Host.Outcome State Fault Refusal :=
  .next (requestFrame tag (requestBody .tableBegin e params) (takeTableBegin tag e params) s)

/-- The meaning of TABLE_LOAD. -/
def execTableLoad (tag : Byte) (e : Word16) (params : List Byte) (s : State) : Host.Outcome State Fault Refusal :=
  .next (requestFrame tag (requestBody .tableLoad e params) (takeTableLoad tag e params) s)

/-- The meaning of TABLE_COMMIT. -/
def execTableCommit (tag : Byte) (e : Word16) (params : List Byte) (s : State) : Host.Outcome State Fault Refusal :=
  .next (requestFrame tag (requestBody .tableCommit e params) (takeTableCommit tag e params) s)

/-- The meaning of TABLE_SELECT. -/
def execTableSelect (tag : Byte) (e : Word16) (params : List Byte) (s : State) : Host.Outcome State Fault Refusal :=
  .next (requestFrame tag (requestBody .tableSelect e params) (takeTableSelect tag e params) s)

/-- The meaning of TABLE_READ. -/
def execTableRead (tag : Byte) (e : Word16) (params : List Byte) (s : State) : Host.Outcome State Fault Refusal :=
  .next (requestFrame tag (requestBody .tableRead e params) (takeTableRead tag e params) s)

end Sys2Proof.Machine
end

