-- ==== Sys2Proof/Machine/Wire.lean ====
section
/-! DEFINITION. What stands on the wires of the station link: the characters of bytes (R168), the layout of a frame (R183), and the frame and the levels that the part transmits. -/

namespace Sys2Proof.Machine

/-! ### Characters (R168) -/

/-- The character of a byte: its eight data bits, least significant first, and a high stop bit. -/
def linkCharacter (b : Byte) : LinkCharacter := BitVec.cons true b

/-- The byte that a character's data bits spell. -/
def characterValue (c : LinkCharacter) : Byte := c.setWidth 8

/-- The stop bit of a character is low. -/
def hasFramingError (c : LinkCharacter) : Bool := !c.getLsbD 8

/-- The ten levels of a character in the order they stand on the wire, true high: the start bit, low, the data bits and the stop
bit. There is no parity bit. -/
def linkLevels (c : LinkCharacter) : List Bool := false :: (List.range 9).map fun k => c.getLsbD k

/-! ### Frames (R183) -/

/-- The kinds of frames. Any other kind is foreign (R169). -/
abbrev requestKind : Byte := 0x01
abbrev dataKind : Byte := 0x02
abbrev resultKind : Byte := 0x03

/-- The bytes of a frame that its CRC-16 covers: kind, tag, length, body (R194). -/
def coveredBytes (kind tag : Byte) (body : List Byte) : List Byte := kind :: tag :: byte body.length :: body

/-- The bytes of a whole frame on the link, its CRC low byte first. -/
def wireBytes (kind tag : Byte) (body : List Byte) : List Byte :=
  0xC3 :: coveredBytes kind tag body ++ bytes16 (crc16 (coveredBytes kind tag body)).toNat

/-! ### What the part transmits -/

/-- The bytes of the frame in transmission: a RESULT frame, a DATA frame, or none (R174, R175). -/
def Link.sentBytes (k : Link) : List Byte :=
  match k.result, k.dataFrame with
  | some f, _ => wireBytes resultKind f.tag f.body
  | none, some f => wireBytes dataKind f.tag f.body
  | none, none => []

/-- The level of SL-TXD, true high, `bitTimes` bit times after the part began to transmit: the characters of the frame in
transmission follow one another, and SL-TXD rests high after them and while nothing is transmitted (R168, R181). -/
def txdLevel (s : State) (bitTimes : Nat) : Bool :=
  (s.link.sentBytes.flatMap fun b => linkLevels (linkCharacter b)).getD bitTimes true

end Sys2Proof.Machine
end

