-- ==== Sys2Proof/Machine/Evaluator.lean ====
section
/-! DEFINITION. The zone evaluator: starting an evaluation (R24 to R26), from readings to margin (R27 to R32), risk levels (R33, R34), qualification (R35 to R39) and completion (R40 to R44). -/

namespace Sys2Proof.Machine

/-! ### Starting an evaluation -/

/-- The snapshot of a member list (R25, R26). -/
def snapshotOf (s : State) (ms : List SlotId) : List SnapEntry :=
  ms.map fun m => { slot := m, sample := contribution s m }

/-- The evaluation of a zone that starts at this moment (R24). -/
def evaluationOf (s : State) (z : ZoneId) (d : ZoneDef) : Current :=
  { zone := some z, start := s.timeBase, bank := s.tables.activeBank, defn := d
    air := snapshotOf s d.air, surface := snapshotOf s d.surface }

/-- The evaluator, if it is idle and the due queue is not empty, takes the head and starts its evaluation (R23, R24).
The queue holds no IDLE zone (R22); such an entry would be dropped. -/
def takeHead (s : State) : State :=
  match s.current, s.dueQueue with
  | none, z :: rest =>
    match s.zone z with
    | some r =>
      { s.setZone z (some { r with dueMark := false }) with
        dueQueue := rest, current := some (evaluationOf s z r.defn) }
    | none => { s with dueQueue := rest }
  | _, _ => s

/-- A zone joins the tail of the due queue (R22). -/
def enqueue (z : ZoneId) (s : State) : State := { s with dueQueue := s.dueQueue ++ [z] }

/-- A zone joins the due queue, and its evaluation starts at once if the evaluator is idle (R20, R23). -/
def joinDueQueue (z : ZoneId) (s : State) : State := takeHead (enqueue z s)

/-! ### From readings to margin -/

/-- A dew point found for an air member: the value and whether a lookup was clamped (R28). -/
structure DewPoint where
  slot : SlotId
  value : Int
  clamped : Bool
deriving DecidableEq, Repr

/-- The dew point of a contributing air member (R28). An air member's sample holds a humidity (R74). -/
def dewPointOf (es : List Entry) (slot : SlotId) (x : Sample) : DewPoint :=
  let f := forwardLookup es x.temp
  let v := inverseLookup es (f.1 * x.rh.getD 0 / 10000)
  { slot := slot, value := v.1, clamped := f.2 || v.2 }

/-- The contributing entries of a snapshot, in list order. -/
def contributors (l : List SnapEntry) : List (SlotId × Sample) :=
  l.filterMap fun e => e.sample.map fun x => (e.slot, x)

/-- The first of the entries with the greatest key (R29, R30). -/
def firstBest (key : α → Int) : α → List α → α
  | best, [] => best
  | best, x :: xs => firstBest key (if key best < key x then x else best) xs

/-- The margin as its signed 16-bit field holds it (R31). -/
def clampMargin (m : Int) : Int := max (-32768) (min 32767 m)

/-- The outcome of an evaluation: none for BLIND (R27), else the values (R29 to R31) and the range mark (R32). -/
def evaluate (es : List Entry) (c : Current) : Option (Values × Bool) :=
  match (contributors c.air).map fun p => dewPointOf es p.1 p.2, contributors c.surface with
  | d :: ds, x :: xs =>
    let wettest := firstBest DewPoint.value d ds
    let coldest := firstBest (fun p => -p.2.temp) x xs
    some ({ dewPoint := wettest.value, coldest := coldest.2.temp, margin := clampMargin (coldest.2.temp - wettest.value)
            airSlot := wettest.slot, surfaceSlot := coldest.1 },
          (d :: ds).any DewPoint.clamped)
  | _, _ => none

/-! ### Risk levels and qualification -/

/-- The place of a level in the risk order. -/
def Level.rank : Level → Nat
  | .clear => 0
  | .watch => 1
  | .alert => 2
  | .dew => 3

/-- The lower of two levels. -/
def Level.lower (a b : Level) : Level := if a.rank ≤ b.rank then a else b

/-- The higher of two levels. -/
def Level.higher (a b : Level) : Level := if a.rank ≤ b.rank then b else a

/-- The raw level of a margin (R33). -/
def rawLevel (d : ZoneDef) (m : Int) : Level :=
  if m ≤ 0 then .dew else if m < d.alert then .alert else if m < d.watch then .watch else .clear

/-- The release level of a margin (R34). -/
def releaseLevel (d : ZoneDef) (m : Int) : Level := rawLevel d (m - d.hyst)

/-- A zone's state and runs, as qualification leaves them. -/
structure Qualified where
  state : ZoneState
  riseCount : Nat
  floor : Option Level
  fallCount : Nat
  ceiling : Option Level
deriving DecidableEq, Repr

/-- A state with both runs clear. -/
def Qualified.settledAt (st : ZoneState) : Qualified :=
  { state := st, riseCount := 0, floor := none, fallCount := 0, ceiling := none }

/-- The level a run carries on: the new level when the run starts, else the old one combined with it (R35, R36). -/
def carriedLevel (combine : Level → Level → Level) (count : Nat) (old : Option Level) (new : Level) : Level :=
  match count, old with
  | 0, _ => new
  | _, none => new
  | _, some l => combine l new

/-- A non-BLIND outcome in a level state whose raw level is above the state extends the rise run (R35). -/
def extendRise (d : ZoneDef) (r : Zone) (st raw : Level) : Qualified :=
  let floor := carriedLevel Level.lower r.riseCount r.floor raw
  if r.riseCount + 1 = d.nin then .settledAt (.level floor)
  else { state := .level st, riseCount := r.riseCount + 1, floor := some floor, fallCount := 0, ceiling := none }

/-- A non-BLIND outcome in a level state whose raw level is not above the state clears the rise run, and extends or clears
the fall run by the release level (R36). -/
def extendFall (d : ZoneDef) (r : Zone) (st release : Level) : Qualified :=
  if release.rank < st.rank then
    let ceiling := carriedLevel Level.higher r.fallCount r.ceiling release
    if r.fallCount + 1 = d.nout then .settledAt (.level ceiling)
    else { state := .level st, riseCount := 0, floor := none, fallCount := r.fallCount + 1, ceiling := some ceiling }
  else .settledAt (.level st)

/-- Qualification: the state and runs after an outcome, given its margin or none for BLIND (R35 to R39). -/
def qualify (d : ZoneDef) (r : Zone) (margin : Option Int) : Qualified :=
  match r.state, margin with
  | .level st, some m =>
    if st.rank < (rawLevel d m).rank then extendRise d r st (rawLevel d m) else extendFall d r st (releaseLevel d m)
  | .blind, some m => .settledAt (.level (rawLevel d m))
  | .level _, none => .settledAt .blind
  | .blind, none =>
    { state := .blind, riseCount := r.riseCount, floor := r.floor, fallCount := r.fallCount, ceiling := r.ceiling }

/-! ### Completion -/

/-- The latest evaluation that a completion writes (R40). -/
def latestAfter (now : Time) (bank : BankId) (r : Zone) (outcome : Option (Values × Bool)) : Latest :=
  match outcome, r.state, r.latest with
  | some (v, mark), _, _ => { stamp := now, bank := bank, rangeMark := mark, values := some v }
  | none, .blind, some l => { l with stamp := now }
  | none, _, _ => { stamp := now, bank := bank, rangeMark := false, values := none }

/-- The period of the timer that a completion starts (R19). -/
def evaluationPeriod (p : Params) (st : ZoneState) (riseCount : Nat) : Nat :=
  if st = .level .clear ∧ riseCount = 0 then p.evalSettled else p.evalFast

/-- The zone record that a completion writes (R19, R40). -/
def zoneAfter (s : State) (c : Current) (r : Zone) : Zone :=
  let o := evaluate (s.tables.entriesOf c.bank) c
  let q := qualify c.defn r (o.map fun p => p.1.margin)
  { r with
    state := q.state, riseCount := q.riseCount, floor := q.floor, fallCount := q.fallCount, ceiling := q.ceiling
    latest := some (latestAfter s.timeBase c.bank r o)
    expiry := some (s.timeBase + BitVec.ofNat 32 (evaluationPeriod s.params q.state q.riseCount)) }

/-- The values that a ZONE_STATE notice of a zone's new record holds: those of a level state (R42). -/
def noticeValues (r : Zone) : Option Values :=
  match r.state with
  | .level _ => r.latest.bind Latest.values
  | .blind => none

/-- A completion changes what the members' pace depends on (R43). -/
def paceInputsChanged (old new : Zone) : Bool :=
  new.state != old.state || (new.riseCount == 0) != (old.riseCount == 0)

/-- The completion's own writes and what it hands to the other blocks (R40 to R44). -/
def completeZone (z : ZoneId) (r : Zone) (c : Current) (s : State) : State :=
  let r' := zoneAfter s c r
  let s1 := s.setZone z (some r')
  let s2 := if r'.state = r.state then s1 else emit (.zoneState z r.state r'.state (noticeValues r')) s1
  let s3 := if paceInputsChanged r r' then recomputeMembers r'.defn.members s2 else s2
  zoneOnsets r.state r'.state s3

/-- What a completion does for the zone it belongs to: nothing if it is discarded (R12). -/
def completeFor (c : Current) (s : State) : State :=
  match c.zone with
  | some z =>
    match s.zone z with
    | some r => completeZone z r c s
    | none => s
  | none => s

/-- The evaluator holds no evaluation (R18). -/
def endEvaluation (s : State) : State := { s with current := none }

/-- The completion of an evaluation: the zone's writes unless it is discarded, then the swap of a PENDING bank, then the head
of the due queue (R12, R41). -/
def completeEvaluation (c : Current) (s : State) : State :=
  takeHead (swapPending (endEvaluation (completeFor c s)))

end Sys2Proof.Machine
end

