-- ==== Sys2Proof/Machine/ZoneRequests.lean ====
section
/-! DEFINITION. The requests of the zone table: ZONE-DEFINE, ZONE-CLOSE, READ-ZONES (R7 to R16). -/

namespace Sys2Proof.Machine

/-- The slots that a list of bytes names, if each is at most 95. -/
def slotsOfBytes (l : List Byte) : Option (List SlotId) := l.mapM slotOfByte

/-- A list names no slot twice. -/
def noRepeats : List SlotId → Bool
  | [] => true
  | x :: xs => !xs.contains x && noRepeats xs

/-- The definition that the bytes of a ZONE-DEFINE spell, if its values pass R7. `rest` begins at the air count. -/
def parseDefinition (watch alert hyst nin nout : Nat) (rest : List Byte) : Option ZoneDef :=
  match rest with
  | [] => none
  | a :: rest =>
    match rest.drop a.toNat with
    | [] => none
    | n :: surfaceBytes =>
      match slotsOfBytes (rest.take a.toNat), slotsOfBytes surfaceBytes with
      | some air, some surface =>
        if inRange 2 2000 watch && inRange 1 (watch - 1) alert && inRange 1 15 nin && inRange 1 15 nout
            && inRange 1 6 a.toNat && inRange 1 8 n.toNat && surfaceBytes.length == n.toNat
            && noRepeats air && noRepeats surface then
          some { watch := watch, alert := alert, hyst := hyst, nin := nin, nout := nout, air := air, surface := surface }
        else none
      | _, _ => none

/-- A member fails the VACANT test or the kind test (R8 step 2): the reason and the slot. -/
def kindFailure (s : State) (k : Kind) (m : SlotId) : Option (Reason × SlotId) :=
  match s.slot m with
  | none => some (.vacant, m)
  | some r => if r.kind = k then none else some (.wrongKind, m)

/-- How many non-IDLE zones name a slot in their list of a kind (R4). -/
def zonesListing (s : State) (k : Kind) (m : SlotId) : Nat :=
  allZones.countP fun z => match s.zone z with
    | some r => (r.defn.membersOf k).contains m
    | none => false

/-- The most non-IDLE zones that may name a slot of a kind (R4). -/
def Kind.zoneLimit : Kind → Nat
  | .air => 2
  | .surface => 1

/-- A member fails the membership limit (R8 step 3). -/
def limitFailure (s : State) (k : Kind) (m : SlotId) : Option (Reason × SlotId) :=
  if k.zoneLimit ≤ zonesListing s k m then some (.limit, m) else none

/-- The first failure among a definition's members, in the order of R8 steps 2 and 3. -/
def memberFailure (s : State) (d : ZoneDef) : Option (Reason × SlotId) :=
  (d.air.findSome? (kindFailure s .air)).or <|
  (d.surface.findSome? (kindFailure s .surface)).or <|
  (d.air.findSome? (limitFailure s .air)).or
  (d.surface.findSome? (limitFailure s .surface))

/-- The record of a newly defined zone, before it joins the due queue (R9). -/
def Zone.defined (d : ZoneDef) : Zone :=
  { state := .blind, defn := d, riseCount := 0, floor := none, fallCount := 0, ceiling := none
    latest := none, expiry := none, dueMark := true }

/-- A definition is taken (R9, R10): the record is written, the zone joins the due queue, its evaluation starts if the
evaluator takes it at once, and the engines recompute its members. Where a member's line is in FAULT the recomputation
may give a miss, and whether it comes before the start is open (log 10). -/
def defineZone (z : ZoneId) (d : ZoneDef) (s : State) : State :=
  let s1 := s.setZone z (some (.defined d))
  if d.members.any fun m => onFaultLine s m then
    if Config.freeRecomputeFirst s.freeCount then joinDueQueue z (recomputeMembers d.members (countFree s1))
    else recomputeMembers d.members (joinDueQueue z (countFree s1))
  else recomputeMembers d.members (joinDueQueue z s1)

/-- ZONE-DEFINE (R7 to R10). -/
def takeZoneDefine (tag : Byte) (e : Word16) (params : List Byte) (s : State) : State :=
  takeNone .zoneDefine tag e (fun s =>
    match params with
    | n :: wLo :: wHi :: aLo :: aHi :: hyst :: nin :: nout :: rest =>
      match zoneOfByte n,
          parseDefinition (unsigned16 wLo wHi) (unsigned16 aLo aHi) hyst.toNat nin.toNat nout.toNat rest with
      | some z, some d =>
        if (s.zone z).isSome then refuse .zoneActive s
        else match memberFailure s d with
          | some (reason, m) => refuse reason s [byte m.val]
          | none => okResult (defineZone z d s)
      | _, _ => refuse .badParam s
    | _ => refuse .badParam s) s

/-- The current evaluation after a close of a zone: discarded if it was that zone's (R12). -/
def Current.closing (z : ZoneId) (c : Current) : Current :=
  if c.zone = some z then { c with zone := none } else c

/-- A zone leaves the evaluator's cycle (R11, R12). -/
def leaveCycle (z : ZoneId) (s : State) : State :=
  { s with dueQueue := s.dueQueue.filter fun y => y != z, current := s.current.map (Current.closing z) }

/-- A non-IDLE zone is closed (R11, R12, R14). -/
def closeZone (z : ZoneId) (r : Zone) (s : State) : State :=
  recomputeMembers r.defn.members (leaveCycle z (s.setZone z none))

/-- ZONE-CLOSE (R11). -/
def takeZoneClose (tag : Byte) (e : Word16) (params : List Byte) (s : State) : State :=
  takeNone .zoneClose tag e (fun s =>
    match params with
    | [n] =>
      match zoneOfByte n with
      | some z =>
        match s.zone z with
        | some r => okResult (closeZone z r s)
        | none => okResult s
      | none => refuse .badParam s
    | _ => refuse .badParam s) s

/-- READ-ZONES (R15). -/
def takeReadZones (tag : Byte) (e : Word16) (params : List Byte) (s : State) : State :=
  takeData .readZones tag e (fun s =>
    match params with
    | [first, count] =>
      if first.toNat ≤ 23 ∧ count ≠ 0 then
        startSending (.zones first.toNat (min (first.toNat + count.toNat) 24)) s
      else refuse .badParam s
    | _ => refuse .badParam s) s

/-- The meaning of ZONE_DEFINE. -/
def execZoneDefine (tag : Byte) (e : Word16) (params : List Byte) (s : State) : Host.Outcome State Fault Refusal :=
  .next (requestFrame tag (requestBody .zoneDefine e params) (takeZoneDefine tag e params) s)

/-- The meaning of ZONE_CLOSE. -/
def execZoneClose (tag : Byte) (e : Word16) (params : List Byte) (s : State) : Host.Outcome State Fault Refusal :=
  .next (requestFrame tag (requestBody .zoneClose e params) (takeZoneClose tag e params) s)

/-- The meaning of READ_ZONES. -/
def execReadZones (tag : Byte) (e : Word16) (params : List Byte) (s : State) : Host.Outcome State Fault Refusal :=
  .next (requestFrame tag (requestBody .readZones e params) (takeReadZones tag e params) s)

end Sys2Proof.Machine
end

