-- ==== Sys2Proof/Machine/FrameEvents.lean ====
section
/-! DEFINITION. The events of the station link: frames of every kind as they end, lost frames and silence, the characters on SL-RXD one by one, and the ends of transmissions (R168 to R175). -/

namespace Sys2Proof.Machine

/-! ### Taking any request -/

/-- The taking of a request of a known operation (R172, section 10.4). -/
def takeOp (op : Op) (tag : Byte) (e : Word16) (params : List Byte) : State → State :=
  match op with
  | .identify => takeIdentify tag e params
  | .readStatus => takeReadStatus tag e params
  | .paramSet => takeParamSet tag e params
  | .paramGet => takeParamGet tag e params
  | .restart => takeRestart tag e params
  | .lineSetup => takeLineSetup tag e params
  | .lineStop => takeLineStop tag e params
  | .probeEnrol => takeProbeEnrol tag e params
  | .probeWithdraw => takeProbeWithdraw tag e params
  | .probeHold => takeProbeHold tag e params
  | .probeRelease => takeProbeRelease tag e params
  | .readProbes => takeReadProbes tag e params
  | .heatProbe => takeHeatProbe tag e params
  | .zoneDefine => takeZoneDefine tag e params
  | .zoneClose => takeZoneClose tag e params
  | .readZones => takeReadZones tag e params
  | .tableBegin => takeTableBegin tag e params
  | .tableLoad => takeTableLoad tag e params
  | .tableCommit => takeTableCommit tag e params
  | .tableSelect => takeTableSelect tag e params
  | .tableRead => takeTableRead tag e params
  | .fetchNotices => takeFetchNotices tag e params
  | .routeSet => takeRouteSet tag e params
  | .clearAlert => takeClearAlert tag e params

/-- The taking of a request with the given body (R172). Check 1: a body of fewer than three bytes is refused BAD_PARAM with
E taken as 0, an unknown operation BAD_OP. -/
def takeRequest (tag : Byte) (body : List Byte) (s : State) : State :=
  match body with
  | op :: eLo :: eHi :: params =>
    match Op.ofCode op with
    | some o => takeOp o tag (word16 eLo eHi) params s
    | none => refuse .badOp (openExchange tag op (unsigned16 eLo eHi) s)
  | op :: _ => refuse .badParam (openExchange tag op 0 s)
  | [] => refuse .badParam (openExchange tag 0 0 s)

/-! ### Frames as they end -/

/-- A good DATA frame ends (R171): consumed in RECEIVING under the open request's tag, ending the exchange PHASE under
another, discarded in any other state. -/
def goodData (tag : Byte) (body : List Byte) (s : State) : State :=
  match s.link.state, s.link.exchange with
  | .receiving, some x => if tag = x.tag then consumeData body s else sendResult .phase .none [] s
  | _, _ => s

/-- A frame with a good CRC and a body of at most 64 bytes ends (R169, R171, R183): a REQUEST, a DATA frame, or a RESULT or
foreign frame, which is discarded. -/
def goodFrame (kind tag : Byte) (body : List Byte) (s : State) : State :=
  if kind = requestKind then goodRequest tag body (takeRequest tag body) s
  else if kind = dataKind then goodData tag body s
  else s

/-- A frame whose CRC is good ends; a body length above 64 damages it (R169). -/
def frameEnds (kind tag : Byte) (body : List Byte) (s : State) : State :=
  if body.length ≤ 64 then goodFrame kind tag body (dropPartial s) else frameDamaged (dropPartial s)

/-! ### The receiver, character by character (R168, R169) -/

/-- A frame has been received whole: `bs` are its bytes from the kind to the second CRC byte. -/
def judgeFrame (bs : List Byte) (s : State) : State :=
  match bs with
  | kind :: tag :: _ :: rest =>
    let body := rest.take (rest.length - 2)
    match rest.drop (rest.length - 2) with
    | [lo, hi] =>
      if word16 lo hi = crc16 (coveredBytes kind tag body) then goodFrame kind tag body s else frameDamaged s
    | _ => s
  | _ => s

/-- One byte is received (R169): hunting for the lead byte, or the next byte of the partial frame. -/
def receiveByte (s : State) (b : Byte) : State :=
  match s.link.partialFrame with
  | none => if b = 0xC3 then { s with link := { s.link with partialFrame := some [] } } else s
  | some bs =>
    let bs' := bs ++ [b]
    match bs'.drop 2 with
    | [] => { s with link := { s.link with partialFrame := some bs' } }
    | len :: rest =>
      if 64 < len.toNat then frameDamaged (dropPartial s)
      else if rest.length = len.toNat + 2 then judgeFrame bs' (dropPartial s)
      else { s with link := { s.link with partialFrame := some bs' } }

/-- A character with a framing error is received (R169): it damages the partial frame; outside a frame it is discarded. -/
def receiveFramingError (s : State) : State :=
  if s.link.partialFrame.isSome then frameDamaged (dropPartial s) else s

/-- One character is received (R168, R169). The receiver takes it whether the part is transmitting or not. -/
def receiveLinkCharacter (s : State) (c : LinkCharacter) : State :=
  if hasFramingError c then receiveFramingError s else receiveByte s (characterValue c)

/-! ### Meanings -/

/-- The meaning of BAD_OP_REQUEST: a good REQUEST frame, acted on as R171 says; taken, it is refused by check 1 of R172. -/
def execBadOpRequest (tag : Byte) (body : List Byte) (s : State) : Host.Outcome State Fault Refusal :=
  .next (requestFrame tag body (takeRequest tag body) s)

/-- The meaning of DATA_FRAME. -/
def execDataFrame (tag : Byte) (body : List Byte) (s : State) : Host.Outcome State Fault Refusal :=
  .next (frameEnds dataKind tag body s)

/-- The meaning of DAMAGED_FRAME: the damage is judged (R169), and what the damage does depends on the exchange state (R171).
A CRC that is right after all damages nothing, a length of at most 64 ends no frame, and a framing error outside a frame is
discarded. -/
def execDamagedFrame (d : FrameDamage) (s : State) : Host.Outcome State Fault Refusal :=
  match d with
  | .badCrc kind tag body crc =>
    .next (if crc = crc16 (coveredBytes kind tag body) then frameEnds kind tag body s else frameDamaged (dropPartial s))
  | .oversizeLength len => .next (if 64 < len.toNat then frameDamaged (dropPartial s) else s)
  | .framingError => .next (receiveFramingError s)

/-- The meaning of FRAME_DISCARDED: a frame with a good CRC, acted on as R171 says. -/
def execFrameDiscarded (kind tag : Byte) (body : List Byte) (s : State) : Host.Outcome State Fault Refusal :=
  .next (frameEnds kind tag body s)

/-- The meaning of FRAME_GAP_TIMEOUT: the partial frame is lost (R169). It does not end a data phase (R173). -/
def execFrameGapTimeout (s : State) : Host.Outcome State Fault Refusal := .next (dropPartial s)

/-- The meaning of SILENCE_TIMEOUT: the data phase of RECEIVING ends SHORT (R173). -/
def execSilenceTimeout (s : State) : Host.Outcome State Fault Refusal :=
  match s.link.state with
  | .receiving => .next (sendResult .short .none [] s)
  | .idle | .sending => .next s

/-- The meaning of REQUEST_ABANDONS_RECEIVING: a good REQUEST frame, acted on as R171 and R173 say. -/
def execRequestAbandonsReceiving (tag : Byte) (body : List Byte) (s : State) : Host.Outcome State Fault Refusal :=
  .next (requestFrame tag body (takeRequest tag body) s)

/-- The meaning of REQUEST_ABANDONS_SENDING: a good REQUEST frame, acted on as R171 and R174 say. -/
def execRequestAbandonsSending (tag : Byte) (body : List Byte) (s : State) : Host.Outcome State Fault Refusal :=
  .next (requestFrame tag body (takeRequest tag body) s)

/-- The meaning of WAITING_REQUEST: a good REQUEST frame, acted on as R171 and R175 say. -/
def execWaitingRequest (tag : Byte) (body : List Byte) (s : State) : Host.Outcome State Fault Refusal :=
  .next (requestFrame tag body (takeRequest tag body) s)

/-- The data frame in transmission has been sent: its bytes have moved and the notices it carries leave the queue (R159, R174). -/
def frameSent (f : OutFrame) (x : Exchange) (s : State) : State :=
  { s with
    link := { s.link with dataFrame := none, exchange := some { x with moved := x.moved + f.body.length } }
    notices := { s.notices with queue := s.notices.queue.drop s.notices.carried, carried := 0 } }

/-- The meaning of DATA_FRAME_TRANSMITTED (R174): a request that waits has abandoned the data phase. -/
def execDataFrameTransmitted (s : State) : Host.Outcome State Fault Refusal :=
  match s.link.dataFrame, s.link.exchange with
  | some f, some x =>
    let s' := frameSent f x s
    .next (if s.link.waiting.isSome then endSending .abandoned s' else buildNext s')
  | _, _ => .next s

/-- The exchange closes (R175). -/
def closeExchange (s : State) : State := { s with link := { s.link with exchange := none, result := none, waiting := none } }

/-- The meaning of RESULT_FRAME_TRANSMITTED (R175): the exchange closes; a restart takes effect (R181), or a waiting request is
taken at once. -/
def execResultFrameTransmitted (s : State) : Host.Outcome State Fault Refusal :=
  match s.link.result with
  | none => .next s
  | some _ =>
    if s.link.restartPending then .next (restartEffect s)
    else match s.link.waiting with
      | some r => .next (takeRequest r.tag r.body (closeExchange s))
      | none => .next (closeExchange s)

/-- The meaning of LEAD_BYTE: the characters reach the receiver in order (R168, R169). -/
def execLeadByte (characters : List LinkCharacter) (s : State) : Host.Outcome State Fault Refusal :=
  .next (characters.foldl receiveLinkCharacter s)

end Sys2Proof.Machine
end

