-- ==== Sys2Proof/Machine/LineEvents.lean ====
section
/-! DEFINITION. The events of the probe lines: choosing and polling (R128, R144 to R146), the reply (R129 to R134), levels, faults and recovery (R136 to R139). -/

namespace Sys2Proof.Machine

/-! ### Choosing and polling -/

/-- Every slot in ring order after the last-served slot, which comes last; from slot 0 if there is none (R145). -/
def ringOrder : Option SlotId → List SlotId
  | none => allSlots
  | some k => allSlots.filter (fun i => k < i) ++ allSlots.filter (fun i => i ≤ k)

/-- A due schedulable slot of a line (R143, R144). -/
def dueOn (s : State) (l : LineId) (i : SlotId) : Bool :=
  match s.slot i with
  | some r => r.line == l && r.schedulable && r.due
  | none => false

/-- The slot that the engine of a line picks at a choice (R145). -/
def chosenSlot (s : State) (l : LineId) : Option SlotId := (ringOrder (s.line l).lastServed).find? (dueOn s l)

/-- The command of a slot's poll (R117, R146). -/
def pollCommand (s : State) (r : Slot) : Command := if r.armed.isSome then .heat s.params.heatTime else .read

/-- The expected payload length (R130). -/
def payloadLength : Command → Kind → ResClass → Nat
  | .heat _, _, _ => 1
  | .read, .surface, .c8 => 1
  | .read, .surface, _ => 2
  | .read, .air, .c8 => 2
  | .read, .air, _ => 4

/-- The transaction record at the start of a poll (R128). -/
def startTxn (s : State) (i : SlotId) (r : Slot) : Txn :=
  { slot := i, command := pollCommand s r, address := r.address
    expected := payloadLength (pollCommand s r) r.kind r.cls, cls := r.cls
    pollStart := s.timeBase, phase := .sending, orphan := false, received := [], framingWait := false }

/-- The meaning of POLL_START (R128, R144, R145): an IDLE line at the idle level with a due schedulable slot begins the poll
of the slot it chooses. Otherwise no choice is made. The choice is made when this command comes, at the first event that brings
it about (R144) or later (DESIGN CHOICE, log 25). -/
def execPollStart (l : LineId) (s : State) : Host.Outcome State Fault Refusal :=
  let ln := s.line l
  if ln.state = .idle ∧ ln.activeLevel = false then
    match chosenSlot s l with
    | some i =>
      match s.slot i with
      | some r =>
        .next (s.setLine l { ln with state := .busy (startTxn s i r), lastServed := some i, driveEnable := true })
      | none => .next s
    | none => .next s
  else .next s

/-- The meaning of POLL_SENT (R128, R129, R136): SENDING ends, PLn-DE goes inactive, and an active stretch begins if the line
is at the active level. -/
def execPollSent (l : LineId) (s : State) : Host.Outcome State Fault Refusal :=
  let ln := s.line l
  match ln.state with
  | .busy t =>
    if t.phase = .sending then
      .next (s.setLine l { ln with
        state := .busy { t with phase := .awaiting }, driveEnable := false, activeStretch := ln.activeLevel })
    else .next s
  | .off | .idle | .fault => .next s

/-! ### Levels of the line (R136, R139) -/

/-- The line after it has gone to the active level: a stretch is measured in IDLE and in every phase of BUSY but SENDING
(R136), a start bit in AWAITING begins the reception (R129), and a rest stretch ends in FAULT (R139). -/
def Line.leaving (ln : Line) : Line :=
  match ln.state with
  | .idle => { ln with activeLevel := true, activeStretch := true }
  | .busy t =>
    match t.phase with
    | .sending => { ln with activeLevel := true }
    | .awaiting =>
      { ln with activeLevel := true, activeStretch := true, state := .busy { t with phase := .receiving } }
    | .receiving | .discarding | .turnaround => { ln with activeLevel := true, activeStretch := true }
  | .fault => { ln with activeLevel := true, restStretch := false }
  | .off => { ln with activeLevel := true }

/-- The meaning of LINE_LEAVES_IDLE_LEVEL. A line that is at the active level already does not leave the idle level. -/
def execLineLeavesIdleLevel (l : LineId) (s : State) : Host.Outcome State Fault Refusal :=
  if (s.line l).activeLevel then .next s else .next (s.setLine l (s.line l).leaving)

/-- A transaction completes (R134): it passes to the given phase, and its outcome is handed on unless it is orphaned. `ln`
is the line's record at the completion. -/
def complete (l : LineId) (ln : Line) (t : Txn) (phase : Phase) (rep : Report) (s : State) : State :=
  let s' := s.setLine l { ln with state := .busy { t with phase := phase, framingWait := false } }
  if t.orphan then s' else handOutcome t.slot t.pollStart rep s'

/-- The line at the idle level with no active stretch (R136). -/
def Line.atIdle (ln : Line) : Line := { ln with activeLevel := false, activeStretch := false }

/-- The meaning of LINE_RETURNS_TO_IDLE_LEVEL: the active stretch ends (R136), a reply with a framing error completes MALFORMED
(R131), and a rest stretch begins in FAULT (R139). A line at the idle level does not return to it. -/
def execLineReturnsToIdleLevel (l : LineId) (s : State) : Host.Outcome State Fault Refusal :=
  if (s.line l).activeLevel then
    let ln := (s.line l).atIdle
    match ln.state with
    | .busy t =>
      if t.phase = .receiving ∧ t.framingWait = true then .next (complete l ln t .discarding (.miss .malformed) s)
      else .next (s.setLine l ln)
    | .fault => .next (s.setLine l { ln with restStretch := true })
    | .off | .idle => .next (s.setLine l ln)
  else .next s

/-! ### The reply (R129 to R132) -/

/-- The meaning of REPLY_TIMEOUT (R129): in AWAITING the transaction completes SILENT. -/
def execReplyTimeout (l : LineId) (s : State) : Host.Outcome State Fault Refusal :=
  match (s.line l).state with
  | .busy t =>
    if t.phase = .awaiting then .next (complete l (s.line l) t .turnaround (.miss .silent) s) else .next s
  | .off | .idle | .fault => .next s

/-- The raw codes of a READ payload, a field of one character for C8 and of two for C12 and C16, high character first (R130,
R132). -/
def fieldCodes (cls : ResClass) : List Byte → List Nat
  | [] => []
  | hi :: rest =>
    match cls with
    | .c8 => hi.toNat :: fieldCodes cls rest
    | .c12 | .c16 =>
      match rest with
      | [] => []
      | lo :: rest => (256 * hi.toNat + lo.toNat) :: fieldCodes cls rest

/-- The reply is judged when its check character has been received whole (R132). A C12 field whose first character is
below 16 is a field below 4096. -/
def judgeReply (t : Txn) (check : Byte) : Report :=
  let payload := t.received.drop 2
  if crc8 (t.received.drop 1) ≠ check then .miss .badCheck
  else
    match t.command with
    | .heat d => if payload.map BitVec.toNat = [d] then .goodHeat else .miss .malformed
    | .read =>
      let codes := fieldCodes t.cls payload
      if t.cls = .c12 ∧ codes.all (fun c => c < 4096) = false then .miss .malformed
      else .goodRead (codes.head?.getD 0) (codes.drop 1).head?

/-- What a reply character does to the reply (R130, R132). -/
inductive CharacterVerdict where
  /-- The character passes its tests and the reply goes on. -/
  | goesOn
  /-- A test of R130 fails: an early completion. -/
  | early (o : ProbeOutcome)
  /-- It is the check character: the reply is complete. -/
  | whole (rep : Report)
deriving DecidableEq, Repr

/-- A reply character is judged by its place in the reply (R130, R132). -/
def judgeCharacter (t : Txn) (mark : Bool) (value : Byte) : CharacterVerdict :=
  match t.received.length with
  | 0 => if mark = true ∧ value.toNat = t.address then .goesOn else .early .wrongAddress
  | n + 1 =>
    if mark = true then .early .malformed
    else if n = 0 then (if value.toNat = t.expected then .goesOn else .early .malformed)
    else if n < 1 + t.expected then .goesOn
    else .whole (judgeReply t value)

/-- A well-formed character ends on the line of a transaction in RECEIVING (R130, R132). Its stop bit is at the idle level
(R123, log 13). -/
def receiveCharacter (l : LineId) (ln : Line) (t : Txn) (bits : BitVec 9) (s : State) : State :=
  match judgeCharacter t (markOf ln.order bits) (valueOf ln.order bits) with
  | .goesOn =>
    s.setLine l { ln.atIdle with state := .busy { t with received := t.received ++ [valueOf ln.order bits] } }
  | .early o => complete l ln.atIdle t .discarding (.miss o) s
  | .whole rep => complete l ln.atIdle t .turnaround rep s

/-- The transaction is receiving a reply that has had no framing error (section 7.4). -/
def Txn.receiving (t : Txn) : Bool := t.phase == .receiving && !t.framingWait

/-- The meaning of REPLY_CHARACTER (R130). Characters outside RECEIVING are ignored (R127, R128, R130, R133, R137). -/
def execReplyCharacter (l : LineId) (bits : BitVec 9) (s : State) : Host.Outcome State Fault Refusal :=
  match (s.line l).state with
  | .busy t => if t.receiving then .next (receiveCharacter l (s.line l) t bits s) else .next s
  | .off | .idle | .fault => .next s

/-- The meaning of REPLY_FRAMING_ERROR (R131): the reception ends and the engine waits for the idle level or a fault. The
line is at the active level (log 13). -/
def execReplyFramingError (l : LineId) (s : State) : Host.Outcome State Fault Refusal :=
  match (s.line l).state with
  | .busy t =>
    if t.receiving then
      .next (s.setLine l { s.line l with
        activeLevel := true, activeStretch := true, state := .busy { t with framingWait := true } })
    else .next s
  | .off | .idle | .fault => .next s

/-- The meaning of REPLY_GAP_TIMEOUT (R130): after a reply character, with no start bit since, the transaction completes
MALFORMED and passes straight to TURNAROUND. -/
def execReplyGapTimeout (l : LineId) (s : State) : Host.Outcome State Fault Refusal :=
  match (s.line l).state with
  | .busy t =>
    if t.receiving && !t.received.isEmpty && !(s.line l).activeLevel then
      .next (complete l (s.line l) t .turnaround (.miss .malformed) s)
    else .next s
  | .off | .idle | .fault => .next s

/-- The meaning of REPLY_COMPLETE (R132): the check character ends. It is judged by its place, as every reply character is. -/
def execReplyComplete (l : LineId) (bits : BitVec 9) (s : State) : Host.Outcome State Fault Refusal :=
  match (s.line l).state with
  | .busy t => if t.receiving then .next (receiveCharacter l (s.line l) t bits s) else .next s
  | .off | .idle | .fault => .next s

/-- The meaning of DISCARDING_END (R130): the line, at the idle level, has been quiet, and the turnaround begins. -/
def execDiscardingEnd (l : LineId) (s : State) : Host.Outcome State Fault Refusal :=
  match (s.line l).state with
  | .busy t =>
    if t.phase = .discarding ∧ (s.line l).activeLevel = false then
      .next (s.setLine l { s.line l with state := .busy { t with phase := .turnaround } })
    else .next s
  | .off | .idle | .fault => .next s

/-- The meaning of TURNAROUND_END (R133): the transaction record is removed and the line becomes IDLE. -/
def execTurnaroundEnd (l : LineId) (s : State) : Host.Outcome State Fault Refusal :=
  match (s.line l).state with
  | .busy t =>
    if t.phase = .turnaround then .next (s.setLine l { s.line l with state := .idle }) else .next s
  | .off | .idle | .fault => .next s

/-! ### Faults (R137 to R139) -/

/-- The outcome LINE_FAULT of a transaction cut by a fault before its completion (R137 steps 1 and 4). -/
def cutTransaction (st : LineState) (s : State) : State :=
  match st with
  | .busy t => if t.inFlight && !t.orphan then handOutcome t.slot t.pollStart (.miss .lineFault) s else s
  | .off | .idle | .fault => s

/-- A line enters FAULT (R137): the transaction goes, the notice and the onset are given, a transaction not yet completed has
its outcome handed on, and every due slot of the line is given a miss, in an open order (R138, log 9). -/
def enterFault (l : LineId) (ln : Line) (s : State) : State :=
  let s1 := s.setLine l { ln with state := .fault, driveEnable := false, activeStretch := false, restStretch := false }
  let s2 := onset .faultAny (emit (.lineState l ln.state.name .fault) s1)
  let s3 := cutTransaction ln.state s2
  inFreeOrder faultMiss (allSlots.filter (dueOn s3 l)) s3

/-- The meaning of LINE_FAULT_ENTRY (R137). With no active stretch being measured there is none that exceeds the fault time. -/
def execLineFaultEntry (l : LineId) (s : State) : Host.Outcome State Fault Refusal :=
  match (s.line l).state with
  | .idle | .busy _ => if (s.line l).activeStretch then .next (enterFault l (s.line l) s) else .next s
  | .off | .fault => .next s

/-- The meaning of LINE_RECOVERY (R139): a rest stretch has reached the fault time; IDLE, with the notice. -/
def execLineRecovery (l : LineId) (s : State) : Host.Outcome State Fault Refusal :=
  let ln := s.line l
  if ln.state = .fault ∧ ln.restStretch = true then
    .next (emit (.lineState l .fault .idle) (s.setLine l { ln with state := .idle, restStretch := false }))
  else .next s

end Sys2Proof.Machine
end

