-- ==== Sys2Proof/Machine/TimeEvents.lean ====
section
/-! DEFINITION. Reset and the events of time: hardware reset, ticks, zone timers, the evaluation's completion, due slots, heat ends (R20, R40, R89, R143, R181). -/

namespace Sys2Proof.Machine

/-- The meaning of HARDWARE_RESET (R17, R70, R93, R141, R153, R167, R181): every block at its reset values, and the link rate
as the pins select it (R168). -/
def execHardwareReset (rate1 rate0 : Bool) (s : State) : Host.Outcome State Fault Refusal :=
  .next (resetAll .reset (linkRateOf rate1 rate0) s)

/-- The meaning of TIME_BASE_TICK (R181). -/
def execTimeBaseTick (s : State) : Host.Outcome State Fault Refusal := .next { s with timeBase := s.timeBase + 1 }

/-- The meaning of ZONE_TIMER_EXPIRY (R20). A timer that does not run, or whose expiry lies ahead, has no expiry event. -/
def execZoneTimerExpiry (z : ZoneId) (s : State) : Host.Outcome State Fault Refusal :=
  match s.zone z with
  | some r =>
    match r.expiry with
    | some t =>
      if liesAhead s.timeBase t then .next s
      else .next (joinDueQueue z (s.setZone z (some { r with expiry := none, dueMark := true })))
    | none => .next s
  | none => .next s

/-- The meaning of EVALUATION_COMPLETION (R40, R41). -/
def execEvaluationCompletion (s : State) : Host.Outcome State Fault Refusal :=
  match s.current with
  | some c => .next (completeEvaluation c s)
  | none => .next s

/-- The meaning of SLOT_DUE (R143): the slot is due from now on; on a line in FAULT it is given its miss (R138). A slot that is
not schedulable or is due already, or whose next-due time lies ahead, has no such event. -/
def execSlotDue (i : SlotId) (s : State) : Host.Outcome State Fault Refusal :=
  match s.slot i with
  | some r =>
    if r.schedulable && !r.due && !liesAhead s.timeBase r.nextDue then
      .next (missIfFaulted i (s.setSlot i (some { r with due := true })))
    else .next s
  | none => .next s

/-- A heat cycle ends (R89, R90): PENDING, due at once, with its notice; on a line in FAULT the slot receives its miss at
once (R138). -/
def endHeat (i : SlotId) (r : Slot) (s : State) : State :=
  missIfFaulted i
    (emit (.probeState i r.state .pending r.lastOutcome)
      (s.setSlot i (some { r.madePending s.timeBase with heatEnd := none })))

/-- The meaning of HEAT_END (R89). A slot that is not HEATING, or whose heat-end time lies ahead, has no such event. -/
def execHeatEnd (i : SlotId) (s : State) : Host.Outcome State Fault Refusal :=
  match s.slot i with
  | some r =>
    match r.heatEnd with
    | some t => if r.state = .heating ∧ liesAhead s.timeBase t = false then .next (endHeat i r s) else .next s
    | none => .next s
  | none => .next s

end Sys2Proof.Machine
end

