-- ==== Sys2Proof/Machine/Dispatch.lean ====
section
/-! DEFINITION. The meaning of every command: one arm per constructor of Instr. -/

namespace Sys2Proof.Machine

/-- The effect of a command on everything but the queue of commands. -/
def exec (i : Instr) (s : State) : Host.Outcome State Fault Refusal :=
  match i with
  | .identify tag e params => Sys2Proof.Machine.execIdentify tag e params s
  | .readStatus tag e params => Sys2Proof.Machine.execReadStatus tag e params s
  | .paramSet tag e params => Sys2Proof.Machine.execParamSet tag e params s
  | .paramGet tag e params => Sys2Proof.Machine.execParamGet tag e params s
  | .restart tag e params => Sys2Proof.Machine.execRestart tag e params s
  | .lineSetup tag e params => Sys2Proof.Machine.execLineSetup tag e params s
  | .lineStop tag e params => Sys2Proof.Machine.execLineStop tag e params s
  | .probeEnrol tag e params => Sys2Proof.Machine.execProbeEnrol tag e params s
  | .probeWithdraw tag e params => Sys2Proof.Machine.execProbeWithdraw tag e params s
  | .probeHold tag e params => Sys2Proof.Machine.execProbeHold tag e params s
  | .probeRelease tag e params => Sys2Proof.Machine.execProbeRelease tag e params s
  | .readProbes tag e params => Sys2Proof.Machine.execReadProbes tag e params s
  | .heatProbe tag e params => Sys2Proof.Machine.execHeatProbe tag e params s
  | .zoneDefine tag e params => Sys2Proof.Machine.execZoneDefine tag e params s
  | .zoneClose tag e params => Sys2Proof.Machine.execZoneClose tag e params s
  | .readZones tag e params => Sys2Proof.Machine.execReadZones tag e params s
  | .tableBegin tag e params => Sys2Proof.Machine.execTableBegin tag e params s
  | .tableLoad tag e params => Sys2Proof.Machine.execTableLoad tag e params s
  | .tableCommit tag e params => Sys2Proof.Machine.execTableCommit tag e params s
  | .tableSelect tag e params => Sys2Proof.Machine.execTableSelect tag e params s
  | .tableRead tag e params => Sys2Proof.Machine.execTableRead tag e params s
  | .fetchNotices tag e params => Sys2Proof.Machine.execFetchNotices tag e params s
  | .routeSet tag e params => Sys2Proof.Machine.execRouteSet tag e params s
  | .clearAlert tag e params => Sys2Proof.Machine.execClearAlert tag e params s
  | .badOpRequest tag body => Sys2Proof.Machine.execBadOpRequest tag body s
  | .dataFrame tag body => Sys2Proof.Machine.execDataFrame tag body s
  | .damagedFrame damage => Sys2Proof.Machine.execDamagedFrame damage s
  | .frameDiscarded kind tag body => Sys2Proof.Machine.execFrameDiscarded kind tag body s
  | .frameGapTimeout => Sys2Proof.Machine.execFrameGapTimeout s
  | .silenceTimeout => Sys2Proof.Machine.execSilenceTimeout s
  | .requestAbandonsReceiving tag body => Sys2Proof.Machine.execRequestAbandonsReceiving tag body s
  | .requestAbandonsSending tag body => Sys2Proof.Machine.execRequestAbandonsSending tag body s
  | .waitingRequest tag body => Sys2Proof.Machine.execWaitingRequest tag body s
  | .dataFrameTransmitted => Sys2Proof.Machine.execDataFrameTransmitted s
  | .resultFrameTransmitted => Sys2Proof.Machine.execResultFrameTransmitted s
  | .hardwareReset rate1 rate0 => Sys2Proof.Machine.execHardwareReset rate1 rate0 s
  | .timeBaseTick => Sys2Proof.Machine.execTimeBaseTick s
  | .zoneTimerExpiry zone => Sys2Proof.Machine.execZoneTimerExpiry zone s
  | .evaluationCompletion => Sys2Proof.Machine.execEvaluationCompletion s
  | .slotDue slot => Sys2Proof.Machine.execSlotDue slot s
  | .pollStart line => Sys2Proof.Machine.execPollStart line s
  | .pollSent line => Sys2Proof.Machine.execPollSent line s
  | .lineLeavesIdleLevel line => Sys2Proof.Machine.execLineLeavesIdleLevel line s
  | .lineReturnsToIdleLevel line => Sys2Proof.Machine.execLineReturnsToIdleLevel line s
  | .replyTimeout line => Sys2Proof.Machine.execReplyTimeout line s
  | .replyCharacter line bits => Sys2Proof.Machine.execReplyCharacter line bits s
  | .replyFramingError line => Sys2Proof.Machine.execReplyFramingError line s
  | .replyGapTimeout line => Sys2Proof.Machine.execReplyGapTimeout line s
  | .replyComplete line bits => Sys2Proof.Machine.execReplyComplete line bits s
  | .discardingEnd line => Sys2Proof.Machine.execDiscardingEnd line s
  | .turnaroundEnd line => Sys2Proof.Machine.execTurnaroundEnd line s
  | .lineFaultEntry line => Sys2Proof.Machine.execLineFaultEntry line s
  | .lineRecovery line => Sys2Proof.Machine.execLineRecovery line s
  | .heatEnd slot => Sys2Proof.Machine.execHeatEnd slot s
  | .leadByte characters => Sys2Proof.Machine.execLeadByte characters s

end Sys2Proof.Machine
end

