-- ==== Sys2Proof/Safety.lean ====
section
/-! DEFINITION. The words that claims about the 2496 use: commands by operation, results and frames as the manual describes them, and the laws that the manual states of the whole part at every moment. -/

namespace Sys2Proof.Machine

/-! ### Requests by operation (10.4) -/

/-- The request command of an operation. -/
def requestOf (op : Op) (tag : Byte) (e : Word16) (params : List Byte) : Instr :=
  match op with
  | .identify => .identify tag e params
  | .readStatus => .readStatus tag e params
  | .paramSet => .paramSet tag e params
  | .paramGet => .paramGet tag e params
  | .restart => .restart tag e params
  | .lineSetup => .lineSetup tag e params
  | .lineStop => .lineStop tag e params
  | .probeEnrol => .probeEnrol tag e params
  | .probeWithdraw => .probeWithdraw tag e params
  | .probeHold => .probeHold tag e params
  | .probeRelease => .probeRelease tag e params
  | .readProbes => .readProbes tag e params
  | .heatProbe => .heatProbe tag e params
  | .zoneDefine => .zoneDefine tag e params
  | .zoneClose => .zoneClose tag e params
  | .readZones => .readZones tag e params
  | .tableBegin => .tableBegin tag e params
  | .tableLoad => .tableLoad tag e params
  | .tableCommit => .tableCommit tag e params
  | .tableSelect => .tableSelect tag e params
  | .tableRead => .tableRead tag e params
  | .fetchNotices => .fetchNotices tag e params
  | .routeSet => .routeSet tag e params
  | .clearAlert => .clearAlert tag e params

/-- The operations that have a data phase: FROM_PART, and TABLE-LOAD, TO_PART (10.4). The others have direction NONE. -/
def hasDataPhase : Op → Bool
  | .identify | .readStatus | .readProbes | .readZones | .tableRead | .fetchNotices | .tableLoad => true
  | _ => false

/-- The most that a request of an operation may announce (R172 check 2). -/
def largestLength (op : Op) : Nat := if hasDataPhase op then 4096 else 0

/-! ### The exchange as the manual describes it -/

/-- A good REQUEST frame would be taken at once: IDLE with no result in transmission (R171). -/
def Ready (s : State) : Prop := s.link.state = .idle ∧ s.link.result = none

/-- The receiver holds no partial frame; nothing else differs. -/
def hunting (s : State) : State := { s with link := { s.link with partialFrame := none } }

/-- The exchange of a request that has just been taken (R170, R172). -/
def exchangeOf (tag op : Byte) (e : Nat) : Exchange :=
  { tag := tag, op := op, expected := e, moved := 0, taken := 0, held := none, source := none, closed := false }

/-- The state in which a request has been answered at once, and nothing else has changed: its exchange is open, its result
frame is in transmission with the whole of E as residue, and the exchange state is IDLE (R172, R175, R186). -/
def answered (tag op : Byte) (e : Nat) (o : Outcome) (reason : Reason) (fields : List Byte) (s : State) : State :=
  { s with link := { s.link with
      state := .idle, exchange := some (exchangeOf tag op e), dataFrame := none, partialFrame := none
      result := some { tag := tag, body := [op, o.code, reason.code] ++ bytes16 e ++ fields } } }

/-- The state in which the data phase of the open exchange has ended and its result frame is in transmission (R175, R176). -/
def ended (x : Exchange) (o : Outcome) (reason : Reason) (fields : List Byte) (s : State) : State :=
  { s with link := { s.link with
      state := .idle, exchange := some { x with held := none, source := none }, dataFrame := none
      result := some { tag := x.tag, body := [x.op, o.code, reason.code] ++ bytes16 (x.expected - x.moved) ++ fields } } }

/-- `n` is the number of records that the next data frame takes of those that wait (R174): as many, from the first, as keep
the body within 64 bytes and within what is left of E. -/
def FrameHolds (recs : List (List Byte)) (room n : Nat) : Prop :=
  n ≤ recs.length ∧ ((recs.take n).flatten.length ≤ 64 ∧ (recs.take n).flatten.length ≤ room)
    ∧ (n < recs.length →
        64 < (recs.take (n + 1)).flatten.length ∨ room < (recs.take (n + 1)).flatten.length)

/-- The records that a request of direction FROM_PART calls for, with its tag, operation and E; none for every other command
and for parameters that are refused (R15, R66, R92, R159, R179, R180). -/
def recordsCalledFor (s : State) : Instr → Option (Byte × Op × Word16 × List (List Byte))
  | .identify tag e [] => some (tag, .identify, e, [identityRecord])
  | .readStatus tag e [] =>
    some (tag, .readStatus, e, [generalRecord s, lineRecord s, populationRecord s, queueRecord s])
  | .readProbes tag e [first, count] =>
    if first.toNat ≤ 95 ∧ count ≠ 0 then
      some (tag, .readProbes, e,
        (allSlots.filter fun i => first.toNat ≤ i.val && i.val < first.toNat + count.toNat).map (slotRecord s))
    else none
  | .readZones tag e [first, count] =>
    if first.toNat ≤ 23 ∧ count ≠ 0 then
      some (tag, .readZones, e,
        (allZones.filter fun z => first.toNat ≤ z.val && z.val < first.toNat + count.toNat).map (zoneRecord s))
    else none
  | .tableRead tag e [n, first, count] =>
    match bankOfCode n with
    | some k =>
      if first.toNat ≤ 63 ∧ count ≠ 0 then
        some (tag, .tableRead, e,
          ((((s.tables.entriesOf k).take (first.toNat + count.toNat)).zipIdx).drop first.toNat).map
            fun (x, k) => entryRecord k x)
      else none
    | none => none
  | .fetchNotices tag e [] => some (tag, .fetchNotices, e, s.notices.queue.map Notice.record)
  | _ => none

/-- The records, as the part stands in `v`, of the range that a request taken in `s` calls for. The range of a TABLE_READ ends at the
complete entries that the bank has in `s` (R15, R66, R92, R174, R179, R180). -/
def recordsInRange (s v : State) : Instr → List (List Byte)
  | .identify _ _ _ => [identityRecord]
  | .readStatus _ _ _ => [generalRecord v, lineRecord v, populationRecord v, queueRecord v]
  | .readProbes _ _ [first, count] =>
    (allSlots.filter fun i => first.toNat ≤ i.val && i.val < first.toNat + count.toNat).map (slotRecord v)
  | .readZones _ _ [first, count] =>
    (allZones.filter fun z => first.toNat ≤ z.val && z.val < first.toNat + count.toNat).map (zoneRecord v)
  | .tableRead _ _ [n, first, count] =>
    match bankOfCode n with
    | some k =>
      ((((v.tables.entriesOf k).take (min (first.toNat + count.toNat) (s.tables.entriesOf k).length)).zipIdx).drop
        first.toNat).map fun (x, k) => entryRecord k x
    | none => []
  | _ => []

/-- The operation fields of the result that ends a FROM_PART data phase (R186). -/
def closingFields (s : State) : RecordSource → List Byte
  | .entries k _ _ => bankFields s.tables k
  | .notices => [byte s.notices.queue.length, flagByte s.notices.overflow]
  | .identity _ | .status _ | .probes _ _ | .zones _ _ => []

/-- The source of the records that an operation sends; only its kind matters (R174). -/
def closingSource : Instr → RecordSource
  | .tableRead _ _ (n :: _) => .entries ((bankOfCode n).getD .rom) 0 0
  | .fetchNotices _ _ _ => .notices
  | _ => .status 0

/-- The part after the result that ends a FROM_PART data phase has been built: the result of a fetch clears the overflow mark
that it reports (R160); no other result changes anything. -/
def reported (src : RecordSource) (s : State) : State :=
  match src with
  | .notices => { s with notices := { s.notices with overflow := false } }
  | _ => s

/-- The number of parameter bytes that an operation requires; ZONE-DEFINE's depends on its counts (R185). -/
def paramsSize : Op → Option Nat
  | .identify | .readStatus | .restart | .tableLoad | .fetchNotices => some 0
  | .paramGet | .lineStop | .probeWithdraw | .probeHold | .probeRelease | .heatProbe | .zoneClose
  | .tableSelect | .clearAlert => some 1
  | .readProbes | .readZones | .tableBegin => some 2
  | .paramSet | .tableRead | .routeSet => some 3
  | .tableCommit => some 5
  | .lineSetup => some 6
  | .probeEnrol => some 10
  | .zoneDefine => none

/-- The exchange has closed (R175). -/
def closed (s : State) : State := { s with link := { s.link with exchange := none, result := none, waiting := none } }

/-- The command of a good frame that is no REQUEST. -/
def frameCommand (kind tag : Byte) (body : List Byte) : Instr :=
  if kind = 0x02 then .dataFrame tag body else .frameDiscarded kind tag body

/-! ### Fields of a record -/

/-- The number that `size` bytes of a record spell from `offset` on, low byte first (R182). -/
def fieldAt (record : List Byte) (offset size : Nat) : Nat :=
  ((record.drop offset).take size).foldr (fun b n => b.toNat + 256 * n) 0

/-- A signed number in a two-byte field (R182). -/
def signedField (i : Int) : Nat := (BitVec.ofInt 16 i).toNat

/-! ### Reset values -/

/-- Every part holds the value that both resets give it (R17, R93, R141, R153, R167, R178, R181). The banks, the link rate, the
pins and the model's own fields stand apart. -/
def AtResetValues (s : State) : Prop :=
  s.timeBase = 0
    ∧ s.params = { freshLimit := 300, pollFast := 50, pollSettled := 300, evalFast := 50, evalSettled := 300
                   missLimit := 4, stepLimit := 500, satLimit := 9800, satCount := 3, heatTime := 20
                   recoveryTime := 60, watermark := 32, policy := .keepOldest }
    ∧ s.link = { rate := s.link.rate, state := .idle, exchange := none, dataFrame := none, result := none
                 waiting := none, partialFrame := none, restartPending := false }
    ∧ (∀ z, s.zone z = none) ∧ s.dueQueue = [] ∧ s.current = none
    ∧ (∀ i, s.slot i = none)
    ∧ (∀ l, s.line l = { state := .off, rate := .r9600, order := .lsbFirst, replyTimeout := 50, faultTime := 100
                         lastServed := none, driveEnable := false, activeLevel := (s.line l).activeLevel
                         activeStretch := false, restStretch := false })
    ∧ s.notices = { queue := [], overflow := false, carried := 0 }
    ∧ s.alertA = { mode := .level, routed := 0, latch := false }
    ∧ s.alertB = { mode := .level, routed := 0, latch := false }

/-- The pins PLn-D, the model's count of free values and the commands that wait are as they were (log 7, log 9, log 2). -/
def OutsideKept (s t : State) : Prop :=
  (∀ l, (t.line l).activeLevel = (s.line l).activeLevel) ∧ t.freeCount = s.freeCount ∧ t.pending = s.pending

/-! ### Slots and zones as the manual describes their changes -/

/-- A time is reached: it does not lie 1 to 6000 ticks ahead (R143). -/
def reached (now t : Time) : Prop := ¬(1 ≤ (t - now).toNat ∧ (t - now).toNat ≤ 6000)

/-- Some member of a definition is on a line in FAULT. -/
def faultedMember (s : State) (d : ZoneDef) : Prop := ∃ m ∈ d.members, onFaultLine s m = true

/-- The slot once its engine has advanced it (R148): HEATING and HELD slots are left as they are. -/
def advanced (s : State) (i : SlotId) (r : Slot) : Slot :=
  if r.state = .heating ∨ r.state = .held then r
  else
    let ticks := match paceOf s i r with
      | .fast => s.params.pollFast
      | .settled => s.params.pollSettled
    let due := r.lastPoll + BitVec.ofNat 32 ticks
    { r with pace := paceOf s i r, nextDue := due, advancedAt := some s.timeBase
             due := !(1 ≤ (due - s.timeBase).toNat && (due - s.timeBase).toNat ≤ 6000) }

/-- The recomputation of a schedulable slot writes its next-due time: its pace goes from SETTLED to FAST (R150), or from FAST to
SETTLED with its outcome taken just before (R151; the same tick, DESIGN CHOICE, log 23). -/
def dueRewritten (s : State) (i : SlotId) (r : Slot) : Prop :=
  r.pace = .settled ∧ paceOf s i r = .fast ∨ advancesAgain s i r = true

/-- A member after its engine has recomputed it, before any miss that a line in FAULT gives it (R150). `s` holds the zones as they
stand after the event. The earlier of two times is found by counting from the last poll time (DEDUCED, log 12); with POLL_FAST equal
to POLL_SETTLED no time changes (R152). A pace that goes to SETTLED keeps the next-due time, but for a slot whose outcome was taken
just before, which is advanced by its new pace (R151). -/
def recomputed (s : State) (i : SlotId) (r : Slot) : Slot :=
  if r.state = .heating ∨ r.state = .held then r
  else if r.pace = .settled ∧ paceOf s i r = .fast then
    let due := if s.params.pollFast ≠ s.params.pollSettled ∧ s.params.pollFast < (r.nextDue - r.lastPoll).toNat
      then r.lastPoll + BitVec.ofNat 32 s.params.pollFast else r.nextDue
    { r with pace := .fast, nextDue := due
             due := r.due || !(1 ≤ (due - s.timeBase).toNat && (due - s.timeBase).toNat ≤ 6000) }
  else if advancesAgain s i r then advanced s i r
  else { r with pace := paceOf s i r }

/-- What an event that names members to the engines leaves of the slots (R150): every slot that is no member is as it was, and
every member not on a line in FAULT is recomputed by the zones of `t`. -/
def MembersRecomputed (s t : State) (d : ZoneDef) : Prop :=
  ∀ i, (i ∉ d.members → t.slot i = s.slot i)
    ∧ (i ∈ d.members → onFaultLine s i = false → t.slot i = (s.slot i).map (recomputed { s with zones := t.zones } i))

/-- The slots of the members after their recomputation, before any miss. `b` holds the zones as they stand after the event. -/
def recomputedMembers (b : State) (d : ZoneDef) : State :=
  { b with slots := Vector.ofFn fun i => if i ∈ d.members then (b.slot i).map (recomputed b i) else b.slot i }

/-- The recomputation leaves a member of a line in FAULT due by a write of its next-due time, so that it is given a LINE_FAULT miss
at once (R138, R150). -/
def givenMiss (b : State) (d : ZoneDef) (i : SlotId) : Prop :=
  i ∈ d.members ∧ onFaultLine b i = true
    ∧ ∃ r, b.slot i = some r ∧ r.state ≠ .heating ∧ r.state ≠ .held ∧ dueRewritten b i r ∧ (recomputed b i r).due = true

/-- `u` is `b` after an event that names members to the engines (R138, R150): every member is recomputed, and each that this leaves
due on a line in FAULT is given its miss, in an order that the manual leaves free (log 9). -/
def RecomputedTo (b u : State) (d : ZoneDef) : Prop :=
  ∃ order : List SlotId, order.Nodup ∧ (∀ i, i ∈ order ↔ givenMiss b d i)
    ∧ u = order.foldl (fun x i => handOutcome i x.timeBase (.miss .lineFault) x) (recomputedMembers b d)

/-- Two states hold the same slots, notices and alert lines. -/
def SameProbesAndNotices (t u : State) : Prop :=
  t.slots = u.slots ∧ t.notices = u.notices ∧ t.alertA = u.alertA ∧ t.alertB = u.alertB

/-- The evaluation that starts for a zone (R24, R26): the snapshot takes the slots as `s` has them. -/
def startedFor (s : State) (z : ZoneId) (d : ZoneDef) : Current :=
  { zone := some z, start := s.timeBase, bank := s.tables.activeBank, defn := d
    air := d.air.map fun m => { slot := m, sample := contribution s m }
    surface := d.surface.map fun m => { slot := m, sample := contribution s m } }

/-- The onsets that a completion gives by taking a zone from `old` to `new` (R44). -/
def onsetsOf (old new : ZoneState) : List AlertSource :=
  (if (new = .level .watch ∨ new = .level .alert ∨ new = .level .dew) ∧ (old = .level .clear ∨ old = .blind)
    then [.watchAny] else [])
  ++ (if (new = .level .alert ∨ new = .level .dew) ∧ (old = .level .clear ∨ old = .level .watch ∨ old = .blind)
    then [.alertAny] else [])
  ++ (if new = .level .dew ∧ old ≠ .level .dew then [.dewAny] else [])
  ++ (if new = .blind ∧ old ≠ .blind then [.blindAny] else [])

/-- The outcome of a transaction is handed on at its completion, unless it is orphaned (R134, R135). -/
def handedOn (t : Txn) (rep : Report) (s : State) : State :=
  if t.orphan then s else handOutcome t.slot t.pollStart rep s

/-- A zone has an air member other than the slot that is a contributor and not heat-armed (R111). -/
def servedWithout (s : State) (i : SlotId) (r : Zone) : Prop :=
  ∃ m ∈ r.defn.air, m ≠ i ∧ contribution s m ≠ none ∧ ∃ q, s.slot m = some q ∧ q.armed = none

/-- The slot is due and schedulable, on the line (R142 to R144). -/
def dueAt (s : State) (l : LineId) (i : SlotId) : Prop :=
  ∃ r, s.slot i = some r ∧ r.line = l ∧ r.due = true ∧ r.state ≠ .heating ∧ r.state ≠ .held

/-- The order test of a table (R61): entry 0 has a pressure of at least 1, and each later entry exceeds the one before it in both
elements. `OrderFails es i` says that `i` is the lowest index at which it fails. -/
def OrderHolds (es : List Entry) (i : Nat) : Prop :=
  ∀ y, es[i]? = some y → 1 ≤ y.pressure ∧ ∀ x, 0 < i → es[i - 1]? = some x → x.temp < y.temp ∧ x.pressure < y.pressure

/-- The lowest entry index at which the order test fails (R61). -/
def OrderFails (es : List Entry) (i : Nat) : Prop := ¬OrderHolds es i ∧ ∀ j < i, OrderHolds es j

/-- A bank becomes ACTIVE, the bank that was ACTIVE becomes STANDBY, and TABLE_SWAP is emitted (R64). -/
def swapped (new old : BankId) (s : State) : State :=
  emit (.tableSwap new old) { s with tables := (s.tables.setState old .standby).setState new .active }

/-- The place of a slot in the ring after the last-served slot (R145). -/
def ringPlace (lastServed : Option SlotId) (i : SlotId) : Nat :=
  match lastServed with
  | none => i.val
  | some k => (i.val + 95 - k.val) % 96

/-! ### Parameters (R177, R178) -/

/-- The range of a parameter (R177). -/
def Param.range : Param → Nat × Nat
  | .freshLimit => (10, 6000)
  | .pollFast => (5, 600)
  | .pollSettled => (5, 6000)
  | .evalFast => (5, 600)
  | .evalSettled => (5, 6000)
  | .missLimit => (1, 15)
  | .stepLimit => (10, 2000)
  | .satLimit => (9000, 10000)
  | .satCount => (1, 15)
  | .heatTime => (1, 255)
  | .recoveryTime => (1, 255)
  | .watermark => (1, 128)
  | .policy => (0, 1)

/-- A PARAM-SET of the parameter to this value is taken: in range, and paired with the present value of its partner (R178). -/
def Param.admits (p : Params) (q : Param) (v : Nat) : Prop :=
  q.range.1 ≤ v ∧ v ≤ q.range.2 ∧
    match q with
    | .pollFast => v ≤ p.pollSettled
    | .pollSettled => p.pollFast ≤ v
    | .evalFast => v ≤ p.evalSettled
    | .evalSettled => p.evalFast ≤ v
    | _ => True

/-! ### Laws of the whole part -/

/-- Every parameter is in its range and each pair is in order (R177, R178). -/
def ParamsLaw (s : State) : Prop :=
  (∀ q : Param, q.range.1 ≤ s.params.get q ∧ s.params.get q ≤ q.range.2)
    ∧ s.params.pollFast ≤ s.params.pollSettled ∧ s.params.evalFast ≤ s.params.evalSettled

/-- The queue holds at most 128 notices (R156), and a frame carries only notices that stand in it. -/
def QueueLaw (s : State) : Prop := s.notices.queue.length ≤ 128 ∧ s.notices.carried ≤ s.notices.queue.length

/-- The entries of a validated bank rise strictly in both elements from a pressure of at least 1 (R50). -/
def entriesRise (es : List Entry) : Prop :=
  es.Pairwise (fun x y => x.temp < y.temp ∧ x.pressure < y.pressure) ∧ ∀ e ∈ es, 1 ≤ e.pressure

/-- What a loadable bank holds in each state (R50, R52). -/
def BankLaw (b : Bank) : Prop :=
  match b.state, b.contents with
  | .empty, c => c = none
  | _, none => False
  | .loading, some c => 2 ≤ c.declared ∧ c.declared ≤ 64 ∧ c.entries.length < c.declared
  | .loaded, some c =>
    2 ≤ c.declared ∧ c.declared ≤ 64 ∧ c.entries.length = c.declared ∧ c.partialTemp = none
  | _, some c =>
    2 ≤ c.declared ∧ c.declared ≤ 64 ∧ c.entries.length = c.declared ∧ c.partialTemp = none ∧ entriesRise c.entries

/-- The cursor stands on the LOADING bank at its next element, and only while a bank is LOADING (R52, R56). -/
def CursorLaw (t : Tables) : Prop :=
  match t.cursor with
  | none => t.a.state ≠ .loading ∧ t.b.state ≠ .loading
  | some k =>
    ∃ b c, t.loadable k.bank = some b ∧ b.state = .loading ∧ b.contents = some c ∧ k.entry = c.entries.length
      ∧ (k.position = .pressure ↔ c.partialTemp.isSome = true)

/-- The laws of the banks: ROM is always validated (R51), exactly one bank is ACTIVE (R53), at most one is PENDING and at most
one LOADING (R52), each bank holds what its state says (R50), an evaluation's bank is ACTIVE throughout it (R47), and a bank is
PENDING only while an evaluation is in progress (R64). -/
def TablesLaw (s : State) : Prop :=
  (s.tables.rom = .pending ∨ s.tables.rom = .active ∨ s.tables.rom = .standby)
    ∧ BankLaw s.tables.a ∧ BankLaw s.tables.b
    ∧ [s.tables.rom, s.tables.a.state, s.tables.b.state].count .active = 1
    ∧ [s.tables.rom, s.tables.a.state, s.tables.b.state].count .pending ≤ 1
    ∧ [s.tables.rom, s.tables.a.state, s.tables.b.state].count .loading ≤ 1
    ∧ CursorLaw s.tables
    ∧ (∀ c, s.current = some c → s.tables.stateOf c.bank = .active)
    ∧ ([s.tables.rom, s.tables.a.state, s.tables.b.state].count .pending ≠ 0 → s.current ≠ none)

/-- The zone under evaluation. -/
def underEvaluation (s : State) (z : ZoneId) : Prop := ∃ c, s.current = some c ∧ c.zone = some z

/-- The laws of the evaluator's cycle: the due queue holds each zone at most once, exactly the zones with the due mark, and
never the zone under evaluation (R22). A defined zone waits on its timer, or is in the queue, or is under evaluation (R6),
and the evaluator is idle only while the queue is empty (R23). -/
def CycleLaw (s : State) : Prop :=
  s.dueQueue.Nodup
    ∧ (∀ z, z ∈ s.dueQueue ↔ ∃ r, s.zone z = some r ∧ r.dueMark = true)
    ∧ (∀ z, underEvaluation s z → ∃ r, s.zone z = some r ∧ r.dueMark = false ∧ r.expiry = none)
    ∧ (∀ z r, s.zone z = some r → ¬underEvaluation s z → r.dueMark = r.expiry.isNone)
    ∧ (s.current = none → s.dueQueue = [])

/-- A definition is one that ZONE-DEFINE accepts (R2, R3, R7). -/
def ZoneDef.Valid (d : ZoneDef) : Prop :=
  2 ≤ d.watch ∧ d.watch ≤ 2000 ∧ 1 ≤ d.alert ∧ d.alert < d.watch ∧ d.hyst ≤ 255
    ∧ 1 ≤ d.nin ∧ d.nin ≤ 15 ∧ 1 ≤ d.nout ∧ d.nout ≤ 15
    ∧ 1 ≤ d.air.length ∧ d.air.length ≤ 6 ∧ d.air.Nodup
    ∧ 1 ≤ d.surface.length ∧ d.surface.length ≤ 8 ∧ d.surface.Nodup

/-- The laws of a zone's runs and latest evaluation (R5, R35 to R38): the counts are never both non-zero and each is below its
limit, a floor stands above the state and a ceiling below it, BLIND has no run, and a level state has values. -/
def Zone.RunsValid (r : Zone) : Prop :=
  r.riseCount < r.defn.nin ∧ r.fallCount < r.defn.nout
    ∧ (r.riseCount = 0 ↔ r.floor = none) ∧ (r.fallCount = 0 ↔ r.ceiling = none)
    ∧ match r.state with
      | .blind => r.riseCount = 0 ∧ r.fallCount = 0 ∧ r.latest.bind Latest.values = none
      | .level st =>
        (r.riseCount = 0 ∨ r.fallCount = 0)
          ∧ (∀ l, r.floor = some l → st.rank < l.rank) ∧ (∀ l, r.ceiling = some l → l.rank < st.rank)
          ∧ r.latest.bind Latest.values ≠ none

/-- Every defined zone has a valid definition and valid runs, and the evaluation in progress works from its zone's definition
(R18, R36, R37). -/
def RunsLaw (s : State) : Prop :=
  (∀ z r, s.zone z = some r → r.defn.Valid ∧ r.RunsValid)
    ∧ ∀ c z r, s.current = some c → c.zone = some z → s.zone z = some r → c.defn = r.defn

/-- The state of a line in which an active stretch is measured: IDLE, and BUSY while the engine is not transmitting (R136). -/
def LineState.watched : LineState → Bool
  | .idle => true
  | .busy t => t.phase != .sending
  | .off | .fault => false

/-- The phase of a line's transaction is SENDING. -/
def LineState.transmitting : LineState → Bool
  | .busy t => t.phase == .sending
  | .off | .idle | .fault => false

/-- The laws of one line: PLn-DE is active exactly while the line transmits (R128), an active stretch is measured exactly while
a watched line is at the active level (R136), a rest stretch exactly while a faulted line is at the idle level (R139), a
reply is received only in RECEIVING (R129, R131), and the setup is in range (R126). -/
def Line.Valid (l : Line) : Prop :=
  l.driveEnable = l.state.transmitting
    ∧ l.activeStretch = (l.activeLevel && l.state.watched)
    ∧ l.restStretch = (!l.activeLevel && l.state == .fault)
    ∧ (∀ t, l.state = .busy t →
        (t.framingWait = true → t.phase = .receiving) ∧ (t.phase = .sending ∨ t.phase = .awaiting → t.received = []))
    ∧ 5 ≤ l.replyTimeout ∧ l.replyTimeout ≤ 250 ∧ 10 ≤ l.faultTime ∧ l.faultTime ≤ 1000

/-- Every line obeys the laws of a line. -/
def LinesLaw (s : State) : Prop := ∀ l, (s.line l).Valid

/-- The laws of an enrolled slot: its fields are in range (R73, R75, R76), a LIVE slot has a reading and a HEATING slot none
(R72, R88), a heat-end time stands in HEATING only (R108), and the heater fields obey R121: a run, a deferral and an
arming by the rule stand on a LIVE air slot only, and a HELD or HEATING slot is not armed. -/
def Slot.Valid (r : Slot) : Prop :=
  1 ≤ r.address ∧ r.address ≤ 62
    ∧ -500 ≤ r.tempOffset ∧ r.tempOffset ≤ 500 ∧ -1000 ≤ r.rhOffset ∧ r.rhOffset ≤ 1000
    ∧ r.misses ≤ 15 ∧ r.run ≤ 15
    ∧ (∀ rd, r.reading = some rd → -4000 ≤ rd.temp ∧ rd.temp ≤ 8499 ∧ ∀ h, rd.rh = some h → h ≤ 10000)
    ∧ (r.state = .live → r.reading ≠ none) ∧ (r.state = .heating → r.reading = none)
    ∧ (r.heatEnd ≠ none ↔ r.state = .heating)
    ∧ (r.run ≠ 0 ∨ r.deferred = true ∨ r.armed = some .rule → r.state = .live)
    ∧ (r.state = .held ∨ r.state = .heating → r.armed = none)
    ∧ (r.kind = .surface → r.rhOffset = 0 ∧ r.run = 0 ∧ r.armed = none ∧ r.deferred = false ∧ r.state ≠ .heating)

/-- A transaction that will hand on its outcome belongs to an enrolled slot of its line, that is not HEATING, as it stood when
the poll began (R79, R83, R135); a heat command belongs to an AIR slot. -/
def TxnLaw (s : State) (l : LineId) (t : Txn) : Prop :=
  t.inFlight = true → t.orphan = false →
    ∃ r, s.slot t.slot = some r ∧ r.line = l ∧ r.address = t.address ∧ r.cls = t.cls ∧ r.state ≠ .heating
      ∧ t.expected = payloadLength t.command r.kind r.cls ∧ (t.command ≠ .read → r.kind = .air)

/-- The laws of the probe table: every enrolled slot is valid, no two have the same line and address (R73), and every
transaction in flight belongs to its slot. -/
def SlotsLaw (s : State) : Prop :=
  (∀ i r, s.slot i = some r → r.Valid)
    ∧ (∀ i j r q, s.slot i = some r → s.slot j = some q → r.line = q.line → r.address = q.address → i = j)
    ∧ ∀ l t, (s.line l).state = .busy t → TxnLaw s l t

/-- The laws of membership (R4): every member of a non-IDLE zone is enrolled with its list's kind, and no slot is a member of
more zones than its kind allows. -/
def MembershipLaw (s : State) : Prop :=
  (∀ z r, s.zone z = some r →
      (∀ m ∈ r.defn.air, ∃ q, s.slot m = some q ∧ q.kind = .air)
        ∧ ∀ m ∈ r.defn.surface, ∃ q, s.slot m = some q ∧ q.kind = .surface)
    ∧ (∀ m, zonesListing s .air m ≤ 2) ∧ ∀ m, zonesListing s .surface m ≤ 1

/-- The laws of the exchange record (R170, R173 to R175): a result is in transmission only while an exchange is open and IDLE,
a data frame exactly while SENDING, a request waits only behind one of them, the counts of bytes agree, and the partial
frame is no longer than its length byte lets it be (R169). -/
def LinkLaw (s : State) : Prop :=
  let k := s.link
  (k.exchange = none ↔ k.state = .idle ∧ k.result = none)
    ∧ (k.result ≠ none → k.state = .idle)
    ∧ (k.dataFrame ≠ none ↔ k.state = .sending)
    ∧ (k.waiting ≠ none → k.state = .sending ∨ k.result ≠ none)
    ∧ (k.restartPending = true → k.result ≠ none)
    ∧ (∀ x, k.exchange = some x → x.moved ≤ x.expected
        ∧ (k.state = .receiving → x.taken < x.expected ∧ x.taken = x.moved + (if x.held.isSome then 1 else 0))
        ∧ (k.state = .sending → x.source ≠ none)
        ∧ ∀ f, k.dataFrame = some f → f.body.length ≤ 64 ∧ x.moved + f.body.length ≤ x.expected)
    ∧ (∀ p, k.partialFrame = some p → ∀ len, p[2]? = some len → len.toNat ≤ 64 ∧ p.length < len.toNat + 5)
    ∧ (s.notices.carried ≠ 0 → ∃ x, k.state = .sending ∧ k.exchange = some x ∧ x.source = some .notices)

end Sys2Proof.Machine
end

