-- ==== Sys2Proof/WellFormed.lean ====
section
/-! DEFINITION. Well-formed commands: what a command must be to stand for the event of its row. exec is total: an ill-formed command is no event of its row, and exec says what becomes of it. -/

namespace Sys2Proof

/-- The body length that a frame can carry (R183). -/
def bodyFits (body : List Byte) : Bool := body.length ≤ 64

/-- A request's parameters, with the operation and E before them, fit one body (R183). -/
def paramsFit (params : List Byte) : Bool := params.length ≤ 61

/-- The body is refused by check 1 of R172: shorter than three bytes, or of an unknown operation. -/
def refusedByCheckOne : List Byte → Bool
  | op :: _ :: _ :: _ => (Op.ofCode op).isNone
  | _ => true

/-- The damage is one (R169), as far as the command alone shows it (that a CRC differs, exec judges). -/
def FrameDamage.wellFormed : FrameDamage → Bool
  | .badCrc _ _ body _ => bodyFits body
  | .oversizeLength len => 64 < len.toNat
  | .framingError => true

/-- Well-formedness of a command. -/
def Instr.wellFormed : Instr → Bool
  | .identify _ _ p | .readStatus _ _ p | .paramSet _ _ p | .paramGet _ _ p | .restart _ _ p
  | .lineSetup _ _ p | .lineStop _ _ p | .probeEnrol _ _ p | .probeWithdraw _ _ p | .probeHold _ _ p
  | .probeRelease _ _ p | .readProbes _ _ p | .heatProbe _ _ p | .zoneDefine _ _ p | .zoneClose _ _ p
  | .readZones _ _ p | .tableBegin _ _ p | .tableLoad _ _ p | .tableCommit _ _ p | .tableSelect _ _ p
  | .tableRead _ _ p | .fetchNotices _ _ p | .routeSet _ _ p | .clearAlert _ _ p => paramsFit p
  | .badOpRequest _ body => bodyFits body && refusedByCheckOne body
  | .dataFrame _ body => bodyFits body
  | .damagedFrame d => d.wellFormed
  | .frameDiscarded kind _ body => bodyFits body && kind != 0x01
  | .requestAbandonsReceiving _ body => bodyFits body
  | .requestAbandonsSending _ body => bodyFits body
  | .waitingRequest _ body => bodyFits body
  | .frameGapTimeout | .silenceTimeout | .dataFrameTransmitted | .resultFrameTransmitted
  | .hardwareReset _ _ | .timeBaseTick | .zoneTimerExpiry _ | .evaluationCompletion | .slotDue _
  | .pollStart _ | .pollSent _ | .lineLeavesIdleLevel _ | .lineReturnsToIdleLevel _ | .replyTimeout _
  | .replyCharacter _ _ | .replyFramingError _ | .replyGapTimeout _ | .replyComplete _ _
  | .discardingEnd _ | .turnaroundEnd _ | .lineFaultEntry _ | .lineRecovery _ | .heatEnd _ => true
  | .leadByte characters => !characters.isEmpty

end Sys2Proof
end

