-- ==== Sys2Proof/Certificates/Slice0/Obligations.lean ====
section
/-! DEFINITION. The statements for the provers: what each command does to the part, what it leaves unchanged, and the laws that every step keeps. -/

section

open Sys2Proof Sys2Proof.Machine

/-! ### The block and its queue of commands -/

/-- Every command at the front of the queue is what a step runs, on the state with the rest of the queue; on an empty queue the
block idles (DESIGN CHOICE, log 2). -/
def Obligations.StepRunsFrontCommand : Prop :=
  (∀ (c : Instr) (rest : List Instr) (s : State), s.pending = c :: rest → step s = exec c { s with pending := rest })
    ∧ ∀ s : State, s.pending = [] → step s = .next s

/-- Every command answers a next state, and leaves the queue of waiting commands as it is (log 2, log 20). -/
def Obligations.CommandsAnswerNextAndKeepQueue : Prop :=
  ∀ (c : Instr) (s : State), ∃ t, exec c s = .next t ∧ t.pending = s.pending

/-! ### Resets -/

/-- The state after reset: every part at its reset value and the banks as after a hardware reset (R70). That the latches are clear
follows R167, not R140 (DESIGN CHOICE, log 24). The empty queue of commands is no value of the manual but the model's own
(DESIGN CHOICE, log 2). -/
def Obligations.ResetStateHoldsResetValues : Prop :=
  AtResetValues State.reset ∧ State.reset.pending = []
    ∧ State.reset.tables = { rom := .active, a := { state := .empty, contents := none }
                             b := { state := .empty, contents := none }, cursor := none }

/-- HARDWARE_RESET, and RESTART with the event in which it takes effect (R168, R181). That both clear the latch of a LATCHED line
follows R167, not R140 (DESIGN CHOICE, log 24). -/
def Obligations.ResetsPutResetValues : Prop :=
  -- HARDWARE_RESET in every state (R168, R181): every part takes its reset value, banks A and B are EMPTY and ROM is ACTIVE (R70),
  -- the link rate is the one that the pins select, any frame in transmission is cut and SL-TXD is left high.
  (∀ (rate1 rate0 : Bool) (s : State), ∃ t, exec (.hardwareReset rate1 rate0) s = .next t
      ∧ AtResetValues t ∧ OutsideKept s t
      ∧ t.tables = { rom := .active, a := { state := .empty, contents := none }
                     b := { state := .empty, contents := none }, cursor := none }
      ∧ t.link.rate = (if rate1 then (if rate0 then .r115200 else .r57600) else if rate0 then .r19200 else .r9600)
      ∧ t.link.rate.bitsPerSecond
          = (if rate1 then (if rate0 then 115200 else 57600) else if rate0 then 19200 else 9600)
      ∧ t.link.sentBytes = [] ∧ ∀ k, txdLevel t k = true)
  -- RESTART (R181): first its result, then the restart.
  ∧ (-- RESULT_FRAME_TRANSMITTED of a RESTART's result (R181): every part takes its reset value, the link keeps its rate, ROM is
    -- ACTIVE, a validated bank is STANDBY, a LOADED bank is kept and any other is EMPTY (R71).
    (∀ (s : State) (f : OutFrame), s.link.result = some f → s.link.restartPending = true →
        ∃ t, exec .resultFrameTransmitted s = .next t
          ∧ AtResetValues t ∧ OutsideKept s t ∧ t.link.rate = s.link.rate
          ∧ t.tables.rom = .active ∧ t.tables.cursor = none
          ∧ ∀ k b, s.tables.loadable k = some b →
              ((b.state = .active ∨ b.state = .pending ∨ b.state = .standby) →
                t.tables.loadable k = some { b with state := .standby })
              ∧ (b.state = .loaded → t.tables.loadable k = some b)
              ∧ ((b.state = .loading ∨ b.state = .empty) → t.tables.loadable k = some { state := .empty, contents := none }))
    -- RESTART is answered OK and changes nothing before its result has been transmitted (R181).
    ∧ (∀ (tag : Byte) (s : State), Ready s →
        exec (.restart tag 0 []) s
          = .next (answered tag 0x05 0 .ok .none [] { s with link := { s.link with restartPending := true } })))

/-! ### The station link: requests that are refused -/

/-- The checks of R172 that need no state of the owning block, each refusing the request and changing nothing but the exchange. -/
def Obligations.RequestsAreChecked : Prop :=
  -- A request that announces more than its direction allows is refused LENGTH and changes nothing but the exchange (R172).
  (∀ (op : Op) (tag : Byte) (e : Word16) (params : List Byte) (s : State),
      Ready s → params.length ≤ 61 → largestLength op < e.toNat →
        exec (requestOf op tag e params) s = .next (answered tag op.code e.toNat .refused .length [] s))
  -- A request whose parameters are too few or too many is refused BAD_PARAM and changes nothing but the exchange (R172 check 3);
  -- a TABLE_LOAD with parameters also while no bank is LOADING (DESIGN CHOICE, log 26).
  ∧ (∀ (op : Op) (tag : Byte) (e : Word16) (params : List Byte) (n : Nat) (s : State),
      Ready s → params.length ≤ 61 → e.toNat ≤ largestLength op → paramsSize op = some n → params.length ≠ n →
        exec (requestOf op tag e params) s = .next (answered tag op.code e.toNat .refused .badParam [] s))
  -- A ZONE_DEFINE that ends before its member lists is refused BAD_PARAM (R172 check 3, R185).
  ∧ (∀ (tag : Byte) (params : List Byte) (s : State), Ready s → params.length < 8 →
      exec (.zoneDefine tag 0 params) s = .next (answered tag 0x30 0 .refused .badParam [] s))
  -- BAD_OP_REQUEST (R172 check 1): an unknown operation is refused BAD_OP with residue E, a body of fewer than three bytes
  -- BAD_PARAM with residue 0; the result names the body's first byte, or 0.
  ∧ (∀ (tag : Byte) (s : State), Ready s →
      (∀ op eLo eHi rest, Op.ofCode op = none → rest.length ≤ 61 →
        exec (.badOpRequest tag (op :: eLo :: eHi :: rest)) s
          = .next (answered tag op (eLo.toNat + 256 * eHi.toNat) .refused .badOp [] s))
      ∧ (∀ op, exec (.badOpRequest tag [op]) s = .next (answered tag op 0 .refused .badParam [] s))
      ∧ (∀ op x, exec (.badOpRequest tag [op, x]) s = .next (answered tag op 0 .refused .badParam [] s))
      ∧ exec (.badOpRequest tag []) s = .next (answered tag 0 0 .refused .badParam [] s))
  -- READ_PROBES, READ_ZONES and TABLE_READ with a first number out of range, a count of 0 or an unknown bank are refused
  -- BAD_PARAM (R15, R66, R92).
  ∧ (∀ (tag : Byte) (e : Word16) (first count bank : Byte) (s : State), Ready s → e.toNat ≤ 4096 →
      (95 < first.toNat ∨ count = 0 →
        exec (.readProbes tag e [first, count]) s = .next (answered tag 0x24 e.toNat .refused .badParam [] s))
      ∧ (23 < first.toNat ∨ count = 0 →
        exec (.readZones tag e [first, count]) s = .next (answered tag 0x32 e.toNat .refused .badParam [] s))
      ∧ (2 < bank.toNat ∨ 63 < first.toNat ∨ count = 0 →
        exec (.tableRead tag e [bank, first, count]) s = .next (answered tag 0x44 e.toNat .refused .badParam [] s)))

/-! ### The station link: data frames to the host -/

/-- The data frames of IDENTIFY and of a READ_STATUS whose E holds every record. -/
def Obligations.IdentifyAndStatusSendRecords : Prop :=
  -- IDENTIFY sends the ten bytes of the identity record in one data frame when E holds them, and ends TRUNCATED at once when it
  -- does not (R179, R192).
  (∀ (tag : Byte) (e : Word16) (s : State), Ready s → e.toNat ≤ 4096 →
      (10 ≤ e.toNat → exec (.identify tag e []) s = .next { s with link := { s.link with
          state := .sending, partialFrame := none
          exchange := some { exchangeOf tag 0x01 e.toNat with source := some (.identity true) }
          dataFrame := some { tag := tag, body := [0x5A, 0x2F, 0x96, 0x24, 0x01, 96, 24, 4, 64, 128] } } })
      ∧ (e.toNat < 10 → exec (.identify tag e []) s = .next (answered tag 0x01 e.toNat .truncated .none [] s)))
  -- READ_STATUS with an E of 57 or more puts the four status records into its first data frame (R180, R191).
  ∧ (∀ (tag : Byte) (e : Word16) (s : State), Ready s → 57 ≤ e.toNat → e.toNat ≤ 4096 →
      exec (.readStatus tag e []) s = .next { s with link := { s.link with
        state := .sending, partialFrame := none
        exchange := some { exchangeOf tag 0x02 e.toNat with source := some (.status 4) }
        dataFrame := some
          { tag := tag, body := generalRecord s ++ lineRecord s ++ populationRecord s ++ queueRecord s } } })

/-- The first data frame of every request of direction FROM_PART (R172, R174): it holds as many of the records called for as fit
64 bytes and E, and the records not sent stay for later frames, but for those that the next record's not fitting in E
has shut out (R15, R66, R92, R180; notices, R159, are not shut out and stay in the queue, counted as carried). Whatever
the part holds when a later frame is built, that frame goes on with the rest of the range that the request called for,
and the phase ends with the operation's own fields. -/
def Obligations.FirstDataFrameHoldsWhatFits : Prop :=
  ∀ (c : Instr) (tag : Byte) (op : Op) (e : Word16) (recs : List (List Byte)) (n : Nat) (s : State),
    Ready s → recordsCalledFor s c = some (tag, op, e, recs) → e.toNat ≤ 4096 →
    FrameHolds recs e.toNat n → n ≠ 0 →
    ∃ src shut,
      exec c s = .next { s with
        link := { s.link with
          state := .sending, partialFrame := none
          exchange := some { exchangeOf tag op.code e.toNat with source := some src, closed := shut }
          dataFrame := some { tag := tag, body := (recs.take n).flatten } }
        notices := if op = .fetchNotices then { s.notices with carried := n } else s.notices }
      ∧ (op = .fetchNotices → src = .notices ∧ shut = false)
      ∧ (op ≠ .fetchNotices → recordsInRange s s c = recs
          ∧ (∀ v, remainingRecords v src = (recordsInRange s v c).drop n)
          ∧ (shut = true ↔ n < recs.length ∧ (recs.take (n + 1)).flatten.length ≤ 64))
      ∧ ∀ v, closingFields v src = closingFields v (closingSource c)

/-- A request of direction FROM_PART of whose records none fits, or that calls for none, is answered at once: OK when no record
was called for, else TRUNCATED, with its operation fields (R15, R66, R92, R160, R180, R186). -/
def Obligations.NoFittingRecordEndsAtOnce : Prop :=
  ∀ (c : Instr) (tag : Byte) (op : Op) (e : Word16) (recs : List (List Byte)) (s : State),
    Ready s → recordsCalledFor s c = some (tag, op, e, recs) → e.toNat ≤ 4096 → FrameHolds recs e.toNat 0 →
      exec c s = .next (answered tag op.code e.toNat (if recs = [] then .ok else .truncated) .none
        (closingFields s (closingSource c)) (reported (closingSource c) s))

/-- DATA_FRAME_TRANSMITTED (R174): the bytes of the frame have moved and the notices that it carried leave the queue (R159).
A waiting request ends the data phase ABANDONED; else the next frame is built of what fits, or the data phase ends. What a next
frame leaves is, whatever the part then holds, the rest of the same range, with the same fields at its end. -/
def Obligations.DataFrameTransmittedGoesOn : Prop :=
  ∀ (s : State) (f : OutFrame) (x : Exchange) (src : RecordSource) (recs : List (List Byte)) (n : Nat) (u : State),
    s.link.dataFrame = some f → s.link.exchange = some x → x.source = some src →
    u = { s with notices := { s.notices with queue := s.notices.queue.drop s.notices.carried, carried := 0 } } →
    recs = remainingRecords u src → FrameHolds recs (x.expected - (x.moved + f.body.length)) n →
    (s.link.waiting ≠ none → exec .dataFrameTransmitted s = .next
      (ended { x with moved := x.moved + f.body.length } .abandoned .none (closingFields u src) (reported src u)))
    ∧ (s.link.waiting = none → (x.closed = true ∨ n = 0) → exec .dataFrameTransmitted s = .next
      (ended { x with moved := x.moved + f.body.length } (if recs = [] then .ok else .truncated) .none
        (closingFields u src) (reported src u)))
    ∧ (s.link.waiting = none → x.closed = false → n ≠ 0 → ∃ src' shut,
        exec .dataFrameTransmitted s = .next { u with
          link := { s.link with
            state := .sending
            exchange := some { x with moved := x.moved + f.body.length, source := some src', closed := shut }
            dataFrame := some { tag := x.tag, body := (recs.take n).flatten } }
          notices := if src = .notices then { u.notices with carried := n } else u.notices }
        ∧ (src = .notices → src' = .notices ∧ shut = false)
        ∧ (src ≠ .notices → (∀ v, remainingRecords v src' = (remainingRecords v src).drop n)
            ∧ (shut = true ↔ n < recs.length ∧ (recs.take (n + 1)).flatten.length ≤ 64))
        ∧ ∀ v, closingFields v src' = closingFields v src)

/-- The layouts of the records that data frames carry (R187 to R191) and the codes of the named values in them (R184, R185). The
identity record (R192) is in `IdentifyAndStatusSendRecords`. A number wider than its field is cut to it; the laws of the
part keep each in range. -/
def Obligations.RecordsHaveTheirLayouts : Prop :=
  -- Slot records (R187).
  (∀ (s : State) (i : SlotId), (s.slot i = none → slotRecord s i = [byte i.val, 0])
    ∧ ∀ r, s.slot i = some r →
      let at' := fieldAt (slotRecord s i)
      (slotRecord s i).length = 35
      ∧ at' 0 1 = i.val ∧ at' 1 1 = r.state.code.toNat ∧ at' 2 1 = r.line.val ∧ at' 3 1 = r.address % 256
      ∧ at' 4 1 = r.kind.code.toNat ∧ at' 5 1 = r.cls.code.toNat ∧ at' 6 1 = r.rule.code.toNat
      ∧ at' 7 2 = signedField r.tempOffset ∧ at' 9 2 = signedField r.rhOffset
      ∧ at' 11 1 = r.misses % 256 ∧ at' 12 1 = r.lastOutcome.code.toNat
      ∧ at' 13 4 = r.nextDue.toNat ∧ at' 17 4 = r.lastPoll.toNat
      ∧ (∀ k, (at' 21 1).testBit k
          = [r.reading.isSome, r.armed.isSome, r.armed == some .forced, r.deferred, r.heatEnd.isSome].getD k false)
      ∧ at' 22 1 = r.run % 256
      ∧ (∀ rd, r.reading = some rd → at' 23 2 = signedField rd.temp ∧ at' 25 2 = rd.rh.getD 0 % 65536
          ∧ at' 27 4 = rd.stamp.toNat)
      ∧ (r.reading = none → at' 23 2 = 0 ∧ at' 25 2 = 0 ∧ at' 27 4 = 0)
      ∧ at' 31 4 = (r.heatEnd.getD 0).toNat)
  -- Zone records (R188).
  ∧ (∀ (s : State) (z : ZoneId), (s.zone z = none → zoneRecord s z = [byte z.val, 0])
    ∧ ∀ r, s.zone z = some r → r.defn.air.length ≤ 6 → r.defn.surface.length ≤ 8 →
      let at' := fieldAt (zoneRecord s z)
      (zoneRecord s z).length = 47
      ∧ at' 0 1 = z.val ∧ at' 1 1 = r.state.code.toNat
      ∧ at' 2 2 = r.defn.watch % 65536 ∧ at' 4 2 = r.defn.alert % 65536 ∧ at' 6 1 = r.defn.hyst % 256
      ∧ at' 7 1 = r.defn.nin % 256 ∧ at' 8 1 = r.defn.nout % 256
      ∧ at' 9 1 = r.defn.air.length ∧ (∀ k < 6, at' (10 + k) 1 = (r.defn.air[k]?.map Fin.val).getD 255)
      ∧ at' 16 1 = r.defn.surface.length ∧ (∀ k < 8, at' (17 + k) 1 = (r.defn.surface[k]?.map Fin.val).getD 255)
      ∧ at' 25 1 = r.riseCount % 256 ∧ at' 26 1 = (r.floor.map fun l => l.code.toNat).getD 255
      ∧ at' 27 1 = r.fallCount % 256 ∧ at' 28 1 = (r.ceiling.map fun l => l.code.toNat).getD 255
      ∧ (∀ k, (at' 29 1).testBit k
          = [r.latest.isSome, (r.latest.bind Latest.values).isSome, (r.latest.map Latest.rangeMark).getD false,
              r.expiry.isSome, r.dueMark].getD k false)
      ∧ (∀ l, r.latest = some l → at' 30 4 = l.stamp.toNat ∧ at' 34 1 = l.bank.code.toNat)
      ∧ (r.latest = none → at' 30 4 = 0 ∧ at' 34 1 = 255)
      ∧ (∀ v, r.latest.bind Latest.values = some v → at' 35 2 = signedField v.dewPoint
          ∧ at' 37 2 = signedField v.coldest ∧ at' 39 2 = signedField v.margin
          ∧ at' 41 1 = v.airSlot.val ∧ at' 42 1 = v.surfaceSlot.val)
      ∧ (r.latest.bind Latest.values = none →
          at' 35 2 = 0 ∧ at' 37 2 = 0 ∧ at' 39 2 = 0 ∧ at' 41 1 = 255 ∧ at' 42 1 = 255)
      ∧ at' 43 4 = (r.expiry.getD 0).toNat)
  -- Table entry records (R189).
  ∧ (∀ (k : Nat) (x : Entry), (entryRecord k x).length = 5 ∧ fieldAt (entryRecord k x) 0 1 = k % 256
      ∧ fieldAt (entryRecord k x) 1 2 = signedField x.temp ∧ fieldAt (entryRecord k x) 3 2 = x.pressure % 65536)
  -- Notice records (R190).
  ∧ (∀ n : Notice, fieldAt n.record 1 1 = n.record.length ∧ fieldAt n.record 2 4 = n.stamp.toNat
      ∧ (∀ z old new, (n.body = .zoneState z old new none →
            n.record.length = 9 ∧ n.record.head? = some 1 ∧ n.record.drop 6 = [byte z.val, old.code, new.code])
          ∧ ∀ v, n.body = .zoneState z old new (some v) →
            n.record.length = 17 ∧ n.record.head? = some 1 ∧ (n.record.drop 6).take 3 = [byte z.val, old.code, new.code]
              ∧ fieldAt n.record 9 2 = signedField v.dewPoint ∧ fieldAt n.record 11 2 = signedField v.coldest
              ∧ fieldAt n.record 13 2 = signedField v.margin ∧ n.record.drop 15 = [byte v.airSlot.val, byte v.surfaceSlot.val])
      ∧ (∀ i old new last, n.body = .probeState i old new last →
          n.record.length = 10 ∧ n.record.head? = some 2 ∧ n.record.drop 6 = [byte i.val, old.code, new.code, last.code])
      ∧ (∀ l old new, n.body = .lineState l old new →
          n.record.length = 9 ∧ n.record.head? = some 3 ∧ n.record.drop 6 = [byte l.val, old.code, new.code])
      ∧ (∀ i z, n.body = .heatDeferred i z →
          n.record.length = 8 ∧ n.record.head? = some 4 ∧ n.record.drop 6 = [byte i.val, byte z.val])
      ∧ (∀ new old, n.body = .tableSwap new old →
          n.record.length = 8 ∧ n.record.head? = some 5 ∧ n.record.drop 6 = [new.code, old.code]))
  -- Status records (R191): general, lines, population, queue and alerts.
  ∧ (∀ s : State,
      ((generalRecord s).length = 12 ∧ (generalRecord s).head? = some 1
        ∧ fieldAt (generalRecord s) 1 4 = s.timeBase.toNat
        ∧ (generalRecord s).drop 5 = [s.tables.activeBank.code, s.tables.rom.code, s.tables.a.state.code, s.tables.b.state.code]
            ++ match s.tables.cursor with
              | some c => [c.bank.code, byte c.entry, c.position.code]
              | none => [0xFF, 0xFF, 0xFF])
      ∧ ((lineRecord s).length = 25 ∧ (lineRecord s).head? = some 2 ∧ ∀ l : LineId,
          ((lineRecord s).drop (1 + 6 * l.val)).take 3
              = [(s.line l).state.name.code, (s.line l).rate.code, (s.line l).order.code]
          ∧ fieldAt (lineRecord s) (4 + 6 * l.val) 1 = (s.line l).replyTimeout % 256
          ∧ fieldAt (lineRecord s) (5 + 6 * l.val) 2 = (s.line l).faultTime % 65536)
      ∧ ((populationRecord s).length = 13 ∧ (populationRecord s).head? = some 3 ∧ ∀ k < 6,
          fieldAt (populationRecord s) (1 + k) 1 = allZones.countP (fun z => (zoneStateCode s z).toNat = k)
          ∧ fieldAt (populationRecord s) (7 + k) 1 = allSlots.countP (fun i => (slotStateCode s i).toNat = k))
      ∧ queueRecord s = [4, byte s.notices.queue.length, if s.notices.overflow then 1 else 0,
          if alertAsserted s s.alertA then 1 else 0, if s.alertA.latch then 1 else 0,
          if alertAsserted s s.alertB then 1 else 0, if s.alertB.latch then 1 else 0])
  -- The codes of the states (R184): IDLE zones and VACANT slots are 0.
  ∧ (∀ s : State, (∀ z, zoneStateCode s z = ((s.zone z).map fun r => r.state.code).getD 0)
      ∧ ∀ i, slotStateCode s i = ((s.slot i).map fun r => r.state.code).getD 0)
  ∧ [ZoneState.blind, .level .clear, .level .watch, .level .alert, .level .dew].map ZoneState.code = [1, 2, 3, 4, 5]
  ∧ [Level.clear, .watch, .alert, .dew].map Level.code = [2, 3, 4, 5]
  ∧ [ProbeState.pending, .live, .heating, .lost, .held].map ProbeState.code = [1, 2, 3, 4, 5]
  ∧ [LineStateName.off, .idle, .busy, .fault].map LineStateName.code = [0, 1, 2, 3]
  ∧ [BankState.empty, .loading, .loaded, .pending, .active, .standby].map BankState.code = [0, 1, 2, 3, 4, 5]
  ∧ [ElementPosition.temperature, .pressure].map ElementPosition.code = [0, 1]
  -- The codes of outcomes and reasons.
  ∧ [ProbeOutcome.none, .good, .silent, .badCheck, .wrongAddress, .malformed, .implausible, .lineFault].map ProbeOutcome.code
      = [0, 1, 2, 3, 4, 5, 6, 7]
  ∧ [Machine.Outcome.ok, .truncated, .short, .halted, .corrupt, .phase, .abandoned, .refused].map Outcome.code
      = [0, 1, 2, 3, 4, 5, 6, 7]
  ∧ [Reason.none, .badOp, .badParam, .length, .busy, .inUse, .duplicate, .notVacant, .vacant, .notHeld, .wrongKind, .limit,
        .zoneActive, .lineActive, .notLoading, .incomplete, .notValid, .checkFirst, .checkSecond, .order, .tableFull].map
      Reason.code = (List.range 21).map byte
  -- The codes that requests carry, and no other byte is one.
  ∧ [Kind.air, .surface].map Kind.code = [0, 1]
  ∧ (∀ k : Kind, kindOfCode k.code = some k) ∧ (∀ b, kindOfCode b = none ↔ 1 < b.toNat)
  ∧ [ResClass.c8, .c12, .c16].map ResClass.code = [0, 1, 2]
  ∧ (∀ c : ResClass, classOfCode c.code = some c) ∧ (∀ b, classOfCode b = none ↔ 2 < b.toNat)
  ∧ [Widening.zero, .ones, .repeatTop, .mid].map Widening.code = [0, 1, 2, 3]
  ∧ (∀ w : Widening, wideningOfCode w.code = some w) ∧ (∀ b, wideningOfCode b = none ↔ 3 < b.toNat)
  ∧ [Rate.r1200, .r2400, .r4800, .r9600, .r19200].map Rate.code = [0, 1, 2, 3, 4]
  ∧ (∀ r : Rate, rateOfCode r.code = some r) ∧ (∀ b, rateOfCode b = none ↔ 4 < b.toNat)
  ∧ [BitOrder.lsbFirst, .msbFirst].map BitOrder.code = [0, 1]
  ∧ (∀ o : BitOrder, orderOfCode o.code = some o) ∧ (∀ b, orderOfCode b = none ↔ 1 < b.toNat)
  ∧ [BankId.rom, .a, .b].map BankId.code = [0, 1, 2]
  ∧ (∀ k : BankId, bankOfCode k.code = some k) ∧ (∀ b, bankOfCode b = none ↔ 2 < b.toNat)
  ∧ alertModeOfCode 0 = some .level ∧ alertModeOfCode 1 = some .latched ∧ (∀ b, alertModeOfCode b = none ↔ 1 < b.toNat)
  ∧ ((List.range 13).map fun k => paramOfCode (byte (k + 1))) = [some .freshLimit, some .pollFast, some .pollSettled,
      some .evalFast, some .evalSettled, some .missLimit, some .stepLimit, some .satLimit, some .satCount, some .heatTime,
      some .recoveryTime, some .watermark, some .policy]
  ∧ (∀ b, paramOfCode b = none ↔ b.toNat = 0 ∨ 13 < b.toNat)
  ∧ policyOfCode 0 = some .keepOldest ∧ policyOfCode 1 = some .keepNewest ∧ (∀ v, policyOfCode v = none ↔ 1 < v)
  ∧ (∀ p : QueuePolicy, policyOfCode p.code = some p)
  -- The operation codes (R185), and no other byte is one.
  ∧ [Op.identify, .readStatus, .paramSet, .paramGet, .restart, .lineSetup, .lineStop, .probeEnrol, .probeWithdraw, .probeHold,
        .probeRelease, .readProbes, .heatProbe, .zoneDefine, .zoneClose, .readZones, .tableBegin, .tableLoad, .tableCommit,
        .tableSelect, .tableRead, .fetchNotices, .routeSet, .clearAlert].map Op.code
      = [0x01, 0x02, 0x03, 0x04, 0x05, 0x10, 0x11, 0x20, 0x21, 0x22, 0x23, 0x24, 0x28, 0x30, 0x31, 0x32,
          0x40, 0x41, 0x42, 0x43, 0x44, 0x50, 0x51, 0x52]
  ∧ ∀ (b : Byte) (op : Op), Op.ofCode b = some op ↔ b = op.code

/-! ### The station link: frames of the host -/

/-- A good REQUEST frame, of whichever row, outside an IDLE exchange (R171, R173 to R175). -/
def Obligations.RequestsOutsideIdleWait : Prop :=
  -- A good REQUEST frame outside an IDLE exchange (R171): in RECEIVING the exchange ends ABANDONED and the request waits, in
  -- SENDING and while a result is in transmission it waits. A second one replaces the first (DEDUCED, log 11).
  (∀ (tag : Byte) (body : List Byte) (x : Exchange) (s : State), body.length ≤ 64 →
      (s.link.state = .receiving → s.link.result = none → s.link.exchange = some x →
        exec (.requestAbandonsReceiving tag body) s = .next
          (hunting (ended x .abandoned .none []
            { s with link := { s.link with waiting := some { tag := tag, body := body } } })))
      ∧ (s.link.state = .sending → s.link.result = none →
        exec (.requestAbandonsSending tag body) s = .next
          (hunting { s with link := { s.link with waiting := some { tag := tag, body := body } } }))
      ∧ (s.link.result ≠ none →
        exec (.waitingRequest tag body) s = .next
          (hunting { s with link := { s.link with waiting := some { tag := tag, body := body } } })))
  -- The 24 requests, and a request that check 1 refuses, are good REQUEST frames: outside an IDLE exchange they wait in the same
  -- way (R171).
  ∧ (∀ (op : Op) (tag : Byte) (e : Word16) (params body : List Byte) (s : State), ¬Ready s →
      exec (requestOf op tag e params) s = exec (.waitingRequest tag (requestBody op e params)) s
        ∧ exec (.badOpRequest tag body) s = exec (.waitingRequest tag body) s
        ∧ exec (.requestAbandonsReceiving tag body) s = exec (.waitingRequest tag body) s
        ∧ exec (.requestAbandonsSending tag body) s = exec (.waitingRequest tag body) s)

/-- The end of an exchange and the taking of the request that waits (R172, R175). -/
def Obligations.ResultTransmittedTakesWaiting : Prop :=
  -- RESULT_FRAME_TRANSMITTED with no restart pending (R175): the exchange closes; a waiting request is taken at once, as it would
  -- have been on its arrival (R172).
  (∀ (s : State) (f : OutFrame), s.link.result = some f → s.link.restartPending = false →
      (s.link.waiting = none → exec .resultFrameTransmitted s = .next (closed s))
      ∧ (∀ op tag e params, s.link.state = .idle → s.link.partialFrame = none → params.length ≤ 61 →
          s.link.waiting = some { tag := tag, body := requestBody op e params } →
          exec .resultFrameTransmitted s = exec (requestOf op tag e params) (closed s))
      ∧ (∀ tag body, s.link.waiting = some { tag := tag, body := body } →
          exec .resultFrameTransmitted s = .next (takeRequest tag body (closed s))))
  -- Taking a request when IDLE is the same event for its command and for its frame (R172).
  ∧ (∀ (op : Op) (tag : Byte) (e : Word16) (params : List Byte) (s : State), Ready s → params.length ≤ 61 →
      exec (requestOf op tag e params) s = .next (takeRequest tag (requestBody op e params) (hunting s)))

/-- Damaged, discarded and lost frames (R169, R171, R173): damage ends a RECEIVING exchange CORRUPT; a DATA frame of another tag
ends it PHASE; 500 ms of silence end it SHORT. In any other exchange state they change nothing but the partial frame. A
framing error is such damage inside a frame; outside one it changes nothing. -/
def Obligations.BadFramesEndReceiving : Prop :=
  ∀ (s : State) (d : FrameDamage) (x : Exchange) (kind tag : Byte) (body : List Byte),
    (∀ k t b crc, d = .badCrc k t b crc → crc ≠ crc16 (k :: t :: byte b.length :: b)) →
    (∀ n, d = .oversizeLength n → 64 < n.toNat) → (d = .framingError → s.link.partialFrame ≠ none) → body.length ≤ 64 →
    (s.link.state = .receiving → s.link.exchange = some x →
      exec (.damagedFrame d) s = .next (hunting (ended x .corrupt .none [] s))
      ∧ exec .silenceTimeout s = .next (ended x .short .none [] s)
      ∧ (tag ≠ x.tag → exec (.dataFrame tag body) s = .next (hunting (ended x .phase .none [] s))))
    ∧ (s.link.state ≠ .receiving →
      exec (.damagedFrame d) s = .next (hunting s) ∧ exec .silenceTimeout s = .next s
      ∧ exec (.dataFrame tag body) s = .next (hunting s))
    ∧ (kind ≠ 0x01 → (kind = 0x02 → s.link.state ≠ .receiving) →
      exec (.frameDiscarded kind tag body) s = .next (hunting s))
    ∧ exec .frameGapTimeout s = .next (hunting s)
    ∧ (s.link.partialFrame = none → exec (.damagedFrame .framingError) s = .next s)

/-- The characters and bytes on SL-RXD and SL-TXD, and the frames that they are (R168, R169, R183). -/
def Obligations.WireBytesAreFrames : Prop :=
  -- LEAD_BYTE: the characters of a whole frame on the wire do what the frame does (R169, R183). A good REQUEST frame is the
  -- request of its body, a good frame of another kind the DATA frame or the frame to be discarded, and a frame whose CRC bytes
  -- are wrong or whose length byte is above 64 is a damaged frame.
  (∀ (s : State), s.link.partialFrame = none →
      (∀ op tag e params, params.length ≤ 61 →
        exec (.leadByte ((wireBytes 0x01 tag (requestBody op e params)).map linkCharacter)) s
          = exec (requestOf op tag e params) s)
      ∧ (∀ tag body, body.length ≤ 64 → refusedByCheckOne body = true →
        exec (.leadByte ((wireBytes 0x01 tag body).map linkCharacter)) s = exec (.badOpRequest tag body) s)
      ∧ (∀ kind tag body, body.length ≤ 64 → kind ≠ 0x01 →
        exec (.leadByte ((wireBytes kind tag body).map linkCharacter)) s = exec (frameCommand kind tag body) s)
      ∧ (∀ (kind tag lo hi : Byte) (body : List Byte), body.length ≤ 64 →
        word16 lo hi ≠ crc16 (kind :: tag :: byte body.length :: body) →
        exec (.leadByte ((0xC3 :: kind :: tag :: byte body.length :: body ++ [lo, hi]).map linkCharacter)) s
          = exec (.damagedFrame (.badCrc kind tag body (word16 lo hi))) s)
      ∧ (∀ kind tag len : Byte, 64 < len.toNat →
        exec (.leadByte ([0xC3, kind, tag, len].map linkCharacter)) s = exec (.damagedFrame (.oversizeLength len)) s))
  -- A frame that has not ended (R169): the lead byte opens the partial frame, and the bytes after it are kept in it until it is
  -- whole. Characters may come in one command or in several.
  ∧ (∀ (s : State) (bytes : List Byte), s.link.partialFrame = none →
      (∀ len, bytes[2]? = some len → len.toNat ≤ 64 ∧ bytes.length < len.toNat + 5) →
        exec (.leadByte ((0xC3 :: bytes).map linkCharacter)) s
          = .next { s with link := { s.link with partialFrame := some bytes } })
  ∧ (∀ (s t : State) (a b : List LinkCharacter), exec (.leadByte a) s = .next t →
      exec (.leadByte (a ++ b)) s = exec (.leadByte b) t)
  -- Hunting, any byte but the lead byte is discarded, and so is a character with a framing error; inside a frame that is damage
  -- (R169).
  ∧ (∀ (s : State) (b : Byte) (c : LinkCharacter),
      (s.link.partialFrame = none → b ≠ 0xC3 → exec (.leadByte [linkCharacter b]) s = .next s)
      ∧ (c.getLsbD 8 = false → exec (.leadByte [c]) s = exec (.damagedFrame .framingError) s))
  -- The character of a byte (R168), true high: a low start bit, the data bits, least significant first, and a high stop bit.
  ∧ (∀ b : Byte, linkLevels (linkCharacter b)
        = [false, b.getLsbD 0, b.getLsbD 1, b.getLsbD 2, b.getLsbD 3, b.getLsbD 4, b.getLsbD 5, b.getLsbD 6, b.getLsbD 7, true]
      ∧ characterValue (linkCharacter b) = b)
  -- The frame that the part transmits (R183): lead, kind, tag, length, body, CRC-16 low byte first; its characters stand on SL-TXD
  -- one after another, and SL-TXD rests high after them and with no frame (R168).
  ∧ (∀ (s : State) (f : OutFrame) (kind : Byte) (crc : Word16),
      (s.link.result = some f ∧ kind = 0x03 ∨ s.link.result = none ∧ s.link.dataFrame = some f ∧ kind = 0x02) →
      crc = crc16 (kind :: f.tag :: byte f.body.length :: f.body) →
        s.link.sentBytes = [0xC3, kind, f.tag, byte f.body.length] ++ f.body ++ [crc.setWidth 8, (crc >>> 8).setWidth 8])
  ∧ (∀ s : State, (s.link.result = none → s.link.dataFrame = none → s.link.sentBytes = [])
      ∧ (∀ n b k, s.link.sentBytes[n]? = some b → k < 10 →
          (linkLevels (linkCharacter b))[k]? = some (txdLevel s (10 * n + k)))
      ∧ ∀ k, 10 * s.link.sentBytes.length ≤ k → txdLevel s k = true)

/-! ### The parameter store -/

/-- PARAM_SET and PARAM_GET (R178): a value in its range that agrees with its partner becomes the parameter's value and no other
parameter changes; any other value or an unknown parameter is refused BAD_PARAM. The result holds the value in force. -/
def Obligations.ParametersAreSetAndRead : Prop :=
  ∀ (tag p lo hi : Byte) (s : State), Ready s →
    (∀ q, paramOfCode p = some q →
      (q.admits s.params (lo.toNat + 256 * hi.toNat) → ∃ ps,
        exec (.paramSet tag 0 [p, lo, hi]) s = .next (answered tag 0x03 0 .ok .none [p, lo, hi] { s with params := ps })
        ∧ ps.get q = lo.toNat + 256 * hi.toNat ∧ ∀ o, o ≠ q → ps.get o = s.params.get o)
      ∧ (¬q.admits s.params (lo.toNat + 256 * hi.toNat) →
        exec (.paramSet tag 0 [p, lo, hi]) s = .next (answered tag 0x03 0 .refused .badParam [] s))
      ∧ exec (.paramGet tag 0 [p]) s
          = .next (answered tag 0x04 0 .ok .none
              [p, byte (s.params.get q), byte (s.params.get q / 256)] s))
    ∧ (paramOfCode p = none →
      exec (.paramSet tag 0 [p, lo, hi]) s = .next (answered tag 0x03 0 .refused .badParam [] s)
      ∧ exec (.paramGet tag 0 [p]) s = .next (answered tag 0x04 0 .refused .badParam [] s))

/-! ### Probe lines: setup and stop -/

/-- LINE_SETUP and LINE_STOP (R126, R127). -/
def Obligations.LinesAreSetUpAndStopped : Prop :=
  -- LINE_SETUP (R126): a line that is OFF takes its setup and becomes IDLE, its fault watch begun; a line that is not OFF is
  -- refused LINE_ACTIVE, and a field out of range BAD_PARAM.
  (∀ (tag n rate order timeout faultLo faultHi : Byte) (s : State), Ready s →
      (∀ l r o, lineOfByte n = some l → rateOfCode rate = some r → orderOfCode order = some o →
        5 ≤ timeout.toNat → timeout.toNat ≤ 250 →
        10 ≤ faultLo.toNat + 256 * faultHi.toNat → faultLo.toNat + 256 * faultHi.toNat ≤ 1000 →
        ((s.line l).state = .off →
          exec (.lineSetup tag 0 [n, rate, order, timeout, faultLo, faultHi]) s
            = .next (answered tag 0x10 0 .ok .none [] (s.setLine l { s.line l with
                state := .idle, rate := r, order := o, replyTimeout := timeout.toNat
                faultTime := faultLo.toNat + 256 * faultHi.toNat
                activeStretch := (s.line l).activeLevel, restStretch := false })))
        ∧ ((s.line l).state ≠ .off →
          exec (.lineSetup tag 0 [n, rate, order, timeout, faultLo, faultHi]) s
            = .next (answered tag 0x10 0 .refused .lineActive [] s)))
      ∧ ((lineOfByte n = none ∨ rateOfCode rate = none ∨ orderOfCode order = none
          ∨ timeout.toNat < 5 ∨ 250 < timeout.toNat
          ∨ faultLo.toNat + 256 * faultHi.toNat < 10 ∨ 1000 < faultLo.toNat + 256 * faultHi.toNat) →
        exec (.lineSetup tag 0 [n, rate, order, timeout, faultLo, faultHi]) s
          = .next (answered tag 0x10 0 .refused .badParam [] s)))
  -- LINE_STOP (R127): the line is OFF, its transaction discarded, its transmitter off and its fault watch ended; its setup and
  -- last-served slot stay. A line that is OFF already is answered OK. A line above 3 is refused BAD_PARAM.
  ∧ (∀ (tag n : Byte) (s : State), Ready s →
      (∀ l, lineOfByte n = some l →
        ((s.line l).state ≠ .off → exec (.lineStop tag 0 [n]) s
          = .next (answered tag 0x11 0 .ok .none [] (s.setLine l { s.line l with
              state := .off, driveEnable := false, activeStretch := false, restStretch := false })))
        ∧ ((s.line l).state = .off → exec (.lineStop tag 0 [n]) s = .next (answered tag 0x11 0 .ok .none [] s)))
      ∧ (3 < n.toNat → exec (.lineStop tag 0 [n]) s = .next (answered tag 0x11 0 .refused .badParam [] s)))

/-! ### The probe table: requests -/

/-- PROBE_ENROL (R76, R77). -/
def Obligations.ProbeEnrolEnrolsOrRefuses : Prop :=
  -- PROBE_ENROL that passes R76 (R77, R149): the slot becomes PENDING with the request's fields, no reading, no misses, FAST and due
  -- at once; on a line in FAULT it is given its LINE_FAULT miss in the same event (R138). A SURFACE slot's RH offset is 0.
  (∀ (tag n line address kind cls rule tLo tHi rhLo rhHi : Byte) (i : SlotId) (l : LineId) (k : Kind) (c : ResClass)
      (w : Widening) (s u : State), Ready s →
      slotOfByte n = some i → lineOfByte line = some l → kindOfCode kind = some k → classOfCode cls = some c →
      wideningOfCode rule = some w → 1 ≤ address.toNat → address.toNat ≤ 62 →
      -500 ≤ signed16 tLo tHi → signed16 tLo tHi ≤ 500 →
      (k = .air → -1000 ≤ signed16 rhLo rhHi ∧ signed16 rhLo rhHi ≤ 1000) →
      s.slot i = none → (∀ j q, s.slot j = some q → q.line = l → q.address ≠ address.toNat) →
      u = s.setSlot i (some
        { state := .pending, line := l, address := address.toNat, kind := k, cls := c, rule := w
          tempOffset := signed16 tLo tHi, rhOffset := if k = .air then signed16 rhLo rhHi else 0
          reading := none, misses := 0, lastOutcome := .none, nextDue := s.timeBase, lastPoll := s.timeBase
          pace := .fast, due := true, advancedAt := none, run := 0, armed := none, deferred := false, heatEnd := none }) →
      ((s.line l).state ≠ .fault →
        exec (.probeEnrol tag 0 [n, line, address, kind, cls, rule, tLo, tHi, rhLo, rhHi]) s
          = .next (answered tag 0x20 0 .ok .none [] u))
      ∧ ((s.line l).state = .fault →
        exec (.probeEnrol tag 0 [n, line, address, kind, cls, rule, tLo, tHi, rhLo, rhHi]) s
          = .next (answered tag 0x20 0 .ok .none [] (handOutcome i s.timeBase (.miss .lineFault) u))))
  -- PROBE_ENROL that R76 refuses, in its order: BAD_PARAM for a field out of range, NOT_VACANT for an enrolled slot, DUPLICATE with
  -- the slot that has the line and address.
  ∧ (∀ (tag n line address kind cls rule tLo tHi rhLo rhHi : Byte) (s : State), Ready s →
      let fieldsFail : Prop :=
        slotOfByte n = none ∨ lineOfByte line = none ∨ kindOfCode kind = none ∨ classOfCode cls = none
          ∨ wideningOfCode rule = none ∨ address.toNat < 1 ∨ 62 < address.toNat
          ∨ signed16 tLo tHi < -500 ∨ 500 < signed16 tLo tHi
          ∨ (kindOfCode kind = some .air ∧ (signed16 rhLo rhHi < -1000 ∨ 1000 < signed16 rhLo rhHi))
      (fieldsFail → exec (.probeEnrol tag 0 [n, line, address, kind, cls, rule, tLo, tHi, rhLo, rhHi]) s
          = .next (answered tag 0x20 0 .refused .badParam [] s))
      ∧ (¬fieldsFail → ∀ i, slotOfByte n = some i →
          (s.slot i ≠ none → exec (.probeEnrol tag 0 [n, line, address, kind, cls, rule, tLo, tHi, rhLo, rhHi]) s
            = .next (answered tag 0x20 0 .refused .notVacant [] s))
          ∧ (s.slot i = none → ∀ j q, s.slot j = some q → lineOfByte line = some q.line → q.address = address.toNat →
              (∀ j' < j, ∀ q', s.slot j' = some q' → ¬(q'.line = q.line ∧ q'.address = q.address)) →
              exec (.probeEnrol tag 0 [n, line, address, kind, cls, rule, tLo, tHi, rhLo, rhHi]) s
                = .next (answered tag 0x20 0 .refused .duplicate [byte j.val] s))))

/-- PROBE_WITHDRAW (R78, R79): a slot that no zone names becomes VACANT, and a transaction in flight for it that has not completed is
orphaned; a slot that a zone names is refused IN_USE with the lowest such zone, a VACANT one VACANT. -/
def Obligations.ProbeWithdrawVacatesSlot : Prop :=
  ∀ (tag n : Byte) (s : State), Ready s →
    (95 < n.toNat → exec (.probeWithdraw tag 0 [n]) s = .next (answered tag 0x21 0 .refused .badParam [] s))
    ∧ ∀ i, slotOfByte n = some i →
      (s.slot i = none → exec (.probeWithdraw tag 0 [n]) s = .next (answered tag 0x21 0 .refused .vacant [] s))
      ∧ (∀ r z zr, s.slot i = some r → s.zone z = some zr → i ∈ zr.defn.members →
          (∀ y < z, ∀ yr, s.zone y = some yr → i ∉ yr.defn.members) →
          exec (.probeWithdraw tag 0 [n]) s = .next (answered tag 0x21 0 .refused .inUse [byte z.val] s))
      ∧ (∀ r, s.slot i = some r → (∀ z zr, s.zone z = some zr → i ∉ zr.defn.members) →
          (∀ t, (s.line r.line).state = .busy t → t.slot = i →
            (t.phase = .sending ∨ t.phase = .awaiting ∨ t.phase = .receiving) →
            exec (.probeWithdraw tag 0 [n]) s = .next (answered tag 0x21 0 .ok .none []
              ((s.setLine r.line { s.line r.line with state := .busy { t with orphan := true } }).setSlot i none)))
          ∧ ((∀ t, (s.line r.line).state = .busy t → t.slot = i → t.phase = .discarding ∨ t.phase = .turnaround) →
            exec (.probeWithdraw tag 0 [n]) s = .next (answered tag 0x21 0 .ok .none [] (s.setSlot i none))))

/-- PROBE_HOLD and PROBE_RELEASE (R80, R82). -/
def Obligations.ProbesAreHeldAndReleased : Prop :=
  -- PROBE_HOLD (R80): PENDING, LIVE and LOST slots become HELD with their heater marks cleared; a HELD slot is left as it is, a
  -- HEATING one is refused BUSY, a VACANT one VACANT.
  (∀ (tag n : Byte) (s : State), Ready s →
      (95 < n.toNat → exec (.probeHold tag 0 [n]) s = .next (answered tag 0x22 0 .refused .badParam [] s))
      ∧ ∀ i, slotOfByte n = some i →
        (s.slot i = none → exec (.probeHold tag 0 [n]) s = .next (answered tag 0x22 0 .refused .vacant [] s))
        ∧ ∀ r, s.slot i = some r →
          (r.state = .heating → exec (.probeHold tag 0 [n]) s = .next (answered tag 0x22 0 .refused .busy [] s))
          ∧ (r.state = .held → exec (.probeHold tag 0 [n]) s = .next (answered tag 0x22 0 .ok .none [] s))
          ∧ ((r.state = .pending ∨ r.state = .live ∨ r.state = .lost) →
            exec (.probeHold tag 0 [n]) s = .next (answered tag 0x22 0 .ok .none []
              (s.setSlot i (some { r with state := .held, run := 0, armed := none, deferred := false })))))
  -- PROBE_RELEASE (R82, R149): a HELD slot becomes PENDING with no misses, FAST and due at once, and on a line in FAULT is given
  -- its LINE_FAULT miss (R138); a slot in any other state, VACANT too, is refused NOT_HELD.
  ∧ (∀ (tag n : Byte) (s : State), Ready s →
      (95 < n.toNat → exec (.probeRelease tag 0 [n]) s = .next (answered tag 0x23 0 .refused .badParam [] s))
      ∧ ∀ i, slotOfByte n = some i →
        ((∀ r, s.slot i = some r → r.state ≠ .held) →
          exec (.probeRelease tag 0 [n]) s = .next (answered tag 0x23 0 .refused .notHeld [] s))
        ∧ ∀ r u, s.slot i = some r → r.state = .held →
          u = s.setSlot i (some { r with
            state := .pending, misses := 0, pace := .fast, nextDue := s.timeBase, due := true }) →
          ((s.line r.line).state ≠ .fault →
            exec (.probeRelease tag 0 [n]) s = .next (answered tag 0x23 0 .ok .none [] u))
          ∧ ((s.line r.line).state = .fault →
            exec (.probeRelease tag 0 [n]) s = .next (answered tag 0x23 0 .ok .none []
              (handOutcome i s.timeBase (.miss .lineFault) u))))

/-- HEAT_PROBE (R119): an air slot that is PENDING, LIVE or LOST is heat-armed with origin FORCED unless it is armed already; a
SURFACE slot is refused WRONG_KIND, a HEATING or HELD one BUSY, a VACANT one VACANT. -/
def Obligations.HeatProbeArmsSlot : Prop :=
  ∀ (tag n : Byte) (s : State), Ready s →
    (95 < n.toNat → exec (.heatProbe tag 0 [n]) s = .next (answered tag 0x28 0 .refused .badParam [] s))
    ∧ ∀ i, slotOfByte n = some i →
      (s.slot i = none → exec (.heatProbe tag 0 [n]) s = .next (answered tag 0x28 0 .refused .vacant [] s))
      ∧ ∀ r, s.slot i = some r →
        (r.kind = .surface → exec (.heatProbe tag 0 [n]) s = .next (answered tag 0x28 0 .refused .wrongKind [] s))
        ∧ (r.kind = .air → (r.state = .heating ∨ r.state = .held) →
          exec (.heatProbe tag 0 [n]) s = .next (answered tag 0x28 0 .refused .busy [] s))
        ∧ (r.kind = .air → r.state ≠ .heating → r.state ≠ .held →
          (r.armed ≠ none → exec (.heatProbe tag 0 [n]) s = .next (answered tag 0x28 0 .ok .none [] s))
          ∧ (r.armed = none → exec (.heatProbe tag 0 [n]) s = .next (answered tag 0x28 0 .ok .none []
              (s.setSlot i (some { r with armed := some .forced })))))

/-! ### Zones: requests -/

/-- ZONE_DEFINE that passes R7 and R8 (R9, R10): the zone holds the definition, is BLIND with no run, no latest evaluation and no
timer, and joins the due queue, or is taken at once by an idle evaluator with an empty queue (R23, R24). Its members are
recomputed (R150), and those that this leaves due on a line in FAULT are given their LINE_FAULT misses, in a free order (R138,
log 9). Nothing else changes. How the recomputation judges the earlier time is the model's reading (DEDUCED, log 12), and
which outcomes are near it in the sense of R151 its choice (DESIGN CHOICE, log 23); whether the snapshot comes before or after the misses is free
(log 10). -/
def Obligations.ZoneDefineDefinesZone : Prop :=
  ∀ (tag n wLo wHi aLo aHi hyst nin nout : Byte) (rest : List Byte) (z : ZoneId) (d : ZoneDef) (s : State),
    Ready s → rest.length ≤ 53 → zoneOfByte n = some z →
    d.watch = wLo.toNat + 256 * wHi.toNat → d.alert = aLo.toNat + 256 * aHi.toNat → d.hyst = hyst.toNat →
    d.nin = nin.toNat → d.nout = nout.toNat → d.Valid →
    rest = byte d.air.length :: (d.air.map fun m => byte m.val)
      ++ byte d.surface.length :: (d.surface.map fun m => byte m.val) →
    s.zone z = none →
    (∀ m ∈ d.air, (∃ q, s.slot m = some q ∧ q.kind = .air) ∧ zonesListing s .air m < 2) →
    (∀ m ∈ d.surface, (∃ q, s.slot m = some q ∧ q.kind = .surface) ∧ zonesListing s .surface m < 1) →
    (s.current = none → s.dueQueue = []) →
    ∃ t, exec (.zoneDefine tag 0 (n :: wLo :: wHi :: aLo :: aHi :: hyst :: nin :: nout :: rest)) s
          = .next (answered tag 0x30 0 .ok .none [] t)
      ∧ (∀ y, t.zone y = if y = z then some
            { state := .blind, defn := d, riseCount := 0, floor := none, fallCount := 0, ceiling := none
              latest := none, expiry := none, dueMark := s.current.isSome }
          else s.zone y)
      ∧ t.dueQueue = (if s.current.isSome then s.dueQueue ++ [z] else [])
      ∧ MembersRecomputed s t d
      ∧ (∃ u, RecomputedTo { s with zones := t.zones } u d ∧ SameProbesAndNotices t u)
      ∧ (s.current.isSome = true → t.current = s.current)
      ∧ (s.current = none → ∃ u, t.current = some (startedFor u z d) ∧ (u = s ∨ (u = t ∧ faultedMember s d)))
      ∧ { s with zones := t.zones, dueQueue := t.dueQueue, current := t.current, slots := t.slots
                 notices := t.notices, alertA := t.alertA, alertB := t.alertB, freeCount := t.freeCount } = t
      ∧ (¬faultedMember s d → t.notices = s.notices ∧ t.alertA = s.alertA ∧ t.alertB = s.alertB)

/-- The checks of ZONE_DEFINE (R7, R8). -/
def Obligations.ZoneDefineRefusals : Prop :=
  -- The definitions that R7 accepts, as the bytes of a ZONE-DEFINE spell them, and no others (R7, R185).
  (∀ (watch alert hyst nin nout : Nat) (rest : List Byte) (d : ZoneDef), hyst ≤ 255 →
      (parseDefinition watch alert hyst nin nout rest = some d ↔
        d.Valid ∧ d.watch = watch ∧ d.alert = alert ∧ d.hyst = hyst ∧ d.nin = nin ∧ d.nout = nout
        ∧ rest = byte d.air.length :: (d.air.map fun m => byte m.val)
            ++ byte d.surface.length :: (d.surface.map fun m => byte m.val)))
  -- ZONE_DEFINE that R8 refuses, in its order: ZONE_ACTIVE for a defined zone; then, with the failing slot, VACANT or WRONG_KIND for
  -- the first member that fails either test, and LIMIT for the first that is at the limit of R4. Air members come first.
  ∧ (∀ (tag n wLo wHi aLo aHi hyst nin nout : Byte) (rest : List Byte) (s : State), Ready s → rest.length ≤ 53 →
      let run := exec (.zoneDefine tag 0 (n :: wLo :: wHi :: aLo :: aHi :: hyst :: nin :: nout :: rest)) s
      let parsed := parseDefinition (wLo.toNat + 256 * wHi.toNat) (aLo.toNat + 256 * aHi.toNat) hyst.toNat nin.toNat
        nout.toNat rest
      ((23 < n.toNat ∨ parsed = none) → run = .next (answered tag 0x30 0 .refused .badParam [] s))
      ∧ ∀ z d, zoneOfByte n = some z → parsed = some d →
        (s.zone z ≠ none → run = .next (answered tag 0x30 0 .refused .zoneActive [] s))
        ∧ (s.zone z = none → ∀ before m after k,
            (d.air.map fun m => (m, Kind.air)) ++ (d.surface.map fun m => (m, Kind.surface))
              = before ++ (m, k) :: after →
            ((∀ p ∈ before, ∃ q, s.slot p.1 = some q ∧ q.kind = p.2) →
              (s.slot m = none → run = .next (answered tag 0x30 0 .refused .vacant [byte m.val] s))
              ∧ (∀ q, s.slot m = some q → q.kind ≠ k →
                  run = .next (answered tag 0x30 0 .refused .wrongKind [byte m.val] s)))
            ∧ ((∀ p ∈ before ++ (m, k) :: after, ∃ q, s.slot p.1 = some q ∧ q.kind = p.2) →
              (∀ p ∈ before, zonesListing s p.2 p.1 < (if p.2 = .air then 2 else 1)) →
              (if k = .air then 2 else 1) ≤ zonesListing s k m →
                run = .next (answered tag 0x30 0 .refused .limit [byte m.val] s))))

/-- ZONE_CLOSE (R11, R12, R14): the zone becomes IDLE and leaves the due queue, its evaluation in progress is discarded, and its former
members are recomputed without it (R150), and those that this leaves due on a line in FAULT are given their LINE_FAULT misses, in
a free order (R138, log 9). An IDLE zone is answered OK with no change; a zone above 23 is refused BAD_PARAM. How the
recomputation judges the earlier time is the model's reading (DEDUCED, log 12), and which outcomes are near it in the sense of R151
its choice (DESIGN CHOICE, log 23). -/
def Obligations.ZoneCloseClosesZone : Prop :=
  ∀ (tag n : Byte) (s : State), Ready s →
    (23 < n.toNat → exec (.zoneClose tag 0 [n]) s = .next (answered tag 0x31 0 .refused .badParam [] s))
    ∧ ∀ z, zoneOfByte n = some z →
      (s.zone z = none → exec (.zoneClose tag 0 [n]) s = .next (answered tag 0x31 0 .ok .none [] s))
      ∧ ∀ r, s.zone z = some r → ∃ t,
        exec (.zoneClose tag 0 [n]) s = .next (answered tag 0x31 0 .ok .none [] t)
        ∧ (∀ y, t.zone y = if y = z then none else s.zone y)
        ∧ t.dueQueue = s.dueQueue.filter (· ≠ z)
        ∧ t.current = s.current.map (fun c => if c.zone = some z then { c with zone := none } else c)
        ∧ MembersRecomputed s t r.defn
        ∧ (∃ u, RecomputedTo { s with zones := t.zones } u r.defn ∧ SameProbesAndNotices t u)
        ∧ { s with zones := t.zones, dueQueue := t.dueQueue, current := t.current, slots := t.slots
                   notices := t.notices, alertA := t.alertA, alertB := t.alertB, freeCount := t.freeCount } = t
        ∧ (¬faultedMember s r.defn → t.notices = s.notices ∧ t.alertA = s.alertA ∧ t.alertB = s.alertB)

/-! ### Saturation tables: requests -/

/-- TABLE_BEGIN (R54): a loadable bank that is neither ACTIVE nor PENDING is begun, LOADING with no entries, both half-checks 0xFFFF and
the cursor at its first element; the other bank, if it was LOADING, becomes EMPTY. -/
def Obligations.TableBeginStartsLoad : Prop :=
  ∀ (tag n count : Byte) (s : State), Ready s →
    ((n.toNat = 0 ∨ 2 < n.toNat ∨ count.toNat < 2 ∨ 64 < count.toNat) →
      exec (.tableBegin tag 0 [n, count]) s = .next (answered tag 0x40 0 .refused .badParam [] s))
    ∧ ∀ k b, bankOfCode n = some k → s.tables.loadable k = some b → 2 ≤ count.toNat → count.toNat ≤ 64 →
      ((b.state = .active ∨ b.state = .pending) →
        exec (.tableBegin tag 0 [n, count]) s = .next (answered tag 0x40 0 .refused .busy [] s))
      ∧ (b.state ≠ .active → b.state ≠ .pending → ∃ t,
        exec (.tableBegin tag 0 [n, count]) s = .next (answered tag 0x40 0 .ok .none [] { s with tables := t })
        ∧ t.rom = s.tables.rom ∧ t.cursor = some { bank := k, entry := 0, position := .temperature }
        ∧ t.loadable k = some
            { state := .loading
              contents := some { declared := count.toNat, entries := [], partialTemp := none
                                 check1 := 0xFFFF, check2 := 0xFFFF } }
        ∧ ∀ j c, j ≠ k → s.tables.loadable j = some c →
            t.loadable j = some (if c.state = .loading then { state := .empty, contents := none } else c))

/-- TABLE_LOAD and the bytes of its data phase, one by one (R55, R58, R173). -/
def Obligations.TableLoadTakesBytes : Prop :=
  -- TABLE_LOAD (R55): with a bank LOADING the exchange receives E bytes; an E of 0 ends it OK at once; with none it is refused
  -- NOT_LOADING. That a bank is LOADING is read from the load cursor (DEDUCED, log 19).
  (∀ (tag : Byte) (e : Word16) (s : State), Ready s → e.toNat ≤ 4096 →
      (s.tables.cursor = none →
        exec (.tableLoad tag e []) s = .next (answered tag 0x41 e.toNat .refused .notLoading [] s))
      ∧ (s.tables.cursor ≠ none →
        (e = 0 → exec (.tableLoad tag e []) s = .next (answered tag 0x41 0 .ok .none [] s))
        ∧ (e ≠ 0 → exec (.tableLoad tag e []) s = .next { s with link := { s.link with
            state := .receiving, partialFrame := none, exchange := some (exchangeOf tag 0x41 e.toNat) } })))
  -- DATA_FRAME under the open request's tag, byte by byte (R55, R58, R173): with no bank LOADING the phase ends HALTED, TABLE_FULL; the
  -- first byte of an element is held; the second gives the element to the table unit and moves two bytes; the byte that
  -- reaches E ends the phase, OK or, with a byte held, SHORT.
  ∧ (∀ (b : Byte) (x : Exchange) (s : State),
      s.link.state = .receiving → s.link.exchange = some x → x.taken < x.expected →
      (s.tables.cursor = none → exec (.dataFrame x.tag [b]) s = .next (hunting (ended x .halted .tableFull [] s)))
      ∧ (s.tables.cursor ≠ none → x.held = none →
        (x.taken + 1 < x.expected → exec (.dataFrame x.tag [b]) s = .next (hunting
          { s with link := { s.link with exchange := some { x with held := some b, taken := x.taken + 1 } } }))
        ∧ (x.taken + 1 = x.expected → exec (.dataFrame x.tag [b]) s = .next (hunting
          (ended { x with taken := x.taken + 1 } .short .none [] s))))
      ∧ (∀ lo, s.tables.cursor ≠ none → x.held = some lo →
        (x.taken + 1 < x.expected → exec (.dataFrame x.tag [b]) s = .next (hunting
          { s with tables := s.tables.writeElement lo b, link := { s.link with
              exchange := some { x with held := none, taken := x.taken + 1, moved := x.moved + 2 } } }))
        ∧ (x.taken + 1 = x.expected → exec (.dataFrame x.tag [b]) s = .next (hunting
          (ended { x with held := none, taken := x.taken + 1, moved := x.moved + 2 } .ok .none []
            { s with tables := s.tables.writeElement lo b })))))

/-- DATA_FRAME of any number of bytes, and the elements that its bytes write (R56 to R58, R173). -/
def Obligations.DataFramesWriteElements : Prop :=
  -- DATA_FRAME of several bytes (R173, R58): a frame is its bytes in order, whatever frames they come in; an empty one takes nothing;
  -- bytes within one frame after the one that reaches E end the phase HALTED, and bytes after a HALTED end are not taken.
  (∀ (a c : List Byte) (x y : Exchange) (s t : State),
      s.link.state = .receiving → s.link.exchange = some x → x.taken < x.expected →
      (a ++ c).length ≤ 64 → exec (.dataFrame x.tag a) s = .next t → t.link.exchange = some y →
      (a = [] → t = hunting s)
      ∧ (t.link.state = .receiving → exec (.dataFrame x.tag (a ++ c)) s = exec (.dataFrame x.tag c) t)
      ∧ (t.link.state ≠ .receiving → y.taken = x.expected → c ≠ [] →
        exec (.dataFrame x.tag (a ++ c)) s = .next (ended y .halted .none [] t))
      ∧ (t.link.state ≠ .receiving → y.taken ≠ x.expected → exec (.dataFrame x.tag (a ++ c)) s = .next t))
  -- The element that a LOADING bank takes (R56, R57): a temperature waits in the partial entry, a pressure completes the entry, and
  -- the declared entry completes the bank; its two bytes go through the half-check of the entry's half.
  ∧ (∀ (t : Tables) (cur : LoadCursor) (b : Bank) (c c' half : BankContents) (lo hi : Byte),
      t.cursor = some cur → t.loadable cur.bank = some b → b.contents = some c →
      c' = (if cur.entry < 32 then { c with check1 := crc16From c.check1 [lo, hi] }
        else { c with check2 := crc16From c.check2 [lo, hi] }) →
      half = { c' with partialTemp := some (BitVec.ofNat 16 (lo.toNat + 256 * hi.toNat)).toInt } →
      (cur.position = .temperature → t.writeElement lo hi =
        { t.setBank cur.bank { b with contents := some half } with cursor := some { cur with position := .pressure } })
      ∧ (∀ temp full, cur.position = .pressure → c.partialTemp = some temp →
        full = { c' with
          entries := c.entries ++ [{ temp := temp, pressure := lo.toNat + 256 * hi.toNat }], partialTemp := none } →
        (c.entries.length + 1 = c.declared → t.writeElement lo hi =
          { t.setBank cur.bank { state := .loaded, contents := some full } with cursor := none })
        ∧ (c.entries.length + 1 ≠ c.declared → t.writeElement lo hi =
          { t.setBank cur.bank { b with contents := some full } with
            cursor := some { cur with entry := cur.entry + 1, position := .temperature } })))

/-- TABLE_COMMIT (R60 to R62). -/
def Obligations.TableCommitValidatesOrRefuses : Prop :=
  -- TABLE_COMMIT of a LOADED bank whose checks agree and whose entries pass the order test (R60 to R62, R64): with the evaluator idle
  -- the bank is ACTIVE at once, the bank that was ACTIVE is STANDBY and TABLE_SWAP is emitted; during an evaluation it is
  -- PENDING. The result holds the bank's state.
  (∀ (tag n lo1 hi1 lo2 hi2 : Byte) (k old : BankId) (b : Bank) (c : BankContents) (s : State), Ready s →
      bankOfCode n = some k → s.tables.loadable k = some b → b.state = .loaded → b.contents = some c →
      (∀ j, s.tables.stateOf j ≠ .pending) →
      (∀ j, s.tables.stateOf j = .active ↔ j = old) →
      c.check1 = word16 lo1 hi1 → c.check2 = word16 lo2 hi2 → (∀ i, OrderHolds c.entries i) →
      (s.current = none → exec (.tableCommit tag 0 [n, lo1, hi1, lo2, hi2]) s
        = .next (answered tag 0x42 0 .ok .none [4] (swapped k old s)))
      ∧ (s.current ≠ none → exec (.tableCommit tag 0 [n, lo1, hi1, lo2, hi2]) s
        = .next (answered tag 0x42 0 .ok .none [3] { s with tables := s.tables.setState k .pending })))
  -- TABLE_COMMIT that is refused, in the order of R60 and R61: BAD_PARAM for ROM and an unknown bank, INCOMPLETE for a bank that is not
  -- LOADED, BUSY while a bank is PENDING, CHECK_FIRST and CHECK_SECOND with the bank's checks, ORDER with the failing index.
  ∧ (∀ (tag n lo1 hi1 lo2 hi2 : Byte) (s : State), Ready s →
      let run := exec (.tableCommit tag 0 [n, lo1, hi1, lo2, hi2]) s
      ((n.toNat = 0 ∨ 2 < n.toNat) → run = .next (answered tag 0x42 0 .refused .badParam [] s))
      ∧ ∀ k b, bankOfCode n = some k → s.tables.loadable k = some b →
        ((b.state ≠ .loaded ∨ b.contents = none) → run = .next (answered tag 0x42 0 .refused .incomplete [] s))
        ∧ ∀ c, b.state = .loaded → b.contents = some c →
          ((∃ j, s.tables.stateOf j = .pending) → run = .next (answered tag 0x42 0 .refused .busy [] s))
          ∧ ((∀ j, s.tables.stateOf j ≠ .pending) →
            (c.check1 ≠ word16 lo1 hi1 → run = .next (answered tag 0x42 0 .refused .checkFirst
              (bytes16 c.check1.toNat ++ bytes16 c.check2.toNat) s))
            ∧ (c.check1 = word16 lo1 hi1 → c.check2 ≠ word16 lo2 hi2 →
              run = .next (answered tag 0x42 0 .refused .checkSecond
                (bytes16 c.check1.toNat ++ bytes16 c.check2.toNat) s))
            ∧ (c.check1 = word16 lo1 hi1 → c.check2 = word16 lo2 hi2 → ∀ i, OrderFails c.entries i →
              run = .next (answered tag 0x42 0 .refused .order [byte i] s))))

/-- TABLE_SELECT (R63, R64): a STANDBY bank becomes ACTIVE at once with the evaluator idle, else PENDING, unless a bank is PENDING
already, BUSY; an ACTIVE or PENDING bank is left as it is; any other is refused NOT_VALID. -/
def Obligations.TableSelectSelectsBank : Prop :=
  ∀ (tag n : Byte) (s : State), Ready s →
    (2 < n.toNat → exec (.tableSelect tag 0 [n]) s = .next (answered tag 0x43 0 .refused .badParam [] s))
    ∧ ∀ k, bankOfCode n = some k →
      (s.tables.stateOf k = .active →
        exec (.tableSelect tag 0 [n]) s = .next (answered tag 0x43 0 .ok .none [4] s))
      ∧ (s.tables.stateOf k = .pending →
        exec (.tableSelect tag 0 [n]) s = .next (answered tag 0x43 0 .ok .none [3] s))
      ∧ ((s.tables.stateOf k = .empty ∨ s.tables.stateOf k = .loading ∨ s.tables.stateOf k = .loaded) →
        exec (.tableSelect tag 0 [n]) s = .next (answered tag 0x43 0 .refused .notValid [] s))
      ∧ (s.tables.stateOf k = .standby →
        ((∃ j, s.tables.stateOf j = .pending) →
          exec (.tableSelect tag 0 [n]) s = .next (answered tag 0x43 0 .refused .busy [] s))
        ∧ ((∀ j, s.tables.stateOf j ≠ .pending) →
          (s.current ≠ none → exec (.tableSelect tag 0 [n]) s
            = .next (answered tag 0x43 0 .ok .none [3] { s with tables := s.tables.setState k .pending }))
          ∧ ∀ old, (∀ j, s.tables.stateOf j = .active ↔ j = old) → s.current = none →
            exec (.tableSelect tag 0 [n]) s = .next (answered tag 0x43 0 .ok .none [4] (swapped k old s))))

/-! ### Notices and alert lines -/

/-- ROUTE_SET and CLEAR_ALERT (R165, R166): the named line takes mode and sources with its latch clear; a LATCHED line's latch is
cleared, a LEVEL line is left as it is. The other line and every other part is unchanged. -/
def Obligations.AlertLinesAreRoutedAndCleared : Prop :=
  ∀ (tag n mode set : Byte) (s : State), Ready s →
    (∀ m, alertModeOfCode mode = some m → set.toNat < 128 →
      (n = 0 → exec (.routeSet tag 0 [n, mode, set]) s = .next (answered tag 0x51 0 .ok .none []
        { s with alertA := { mode := m, routed := set.setWidth 7, latch := false } }))
      ∧ (n = 1 → exec (.routeSet tag 0 [n, mode, set]) s = .next (answered tag 0x51 0 .ok .none []
        { s with alertB := { mode := m, routed := set.setWidth 7, latch := false } })))
    ∧ ((1 < n.toNat ∨ alertModeOfCode mode = none ∨ 128 ≤ set.toNat) →
      exec (.routeSet tag 0 [n, mode, set]) s = .next (answered tag 0x51 0 .refused .badParam [] s))
    ∧ (n = 0 → exec (.clearAlert tag 0 [n]) s = .next (answered tag 0x52 0 .ok .none []
        { s with alertA := { s.alertA with latch := if s.alertA.mode = .latched then false else s.alertA.latch } }))
    ∧ (n = 1 → exec (.clearAlert tag 0 [n]) s = .next (answered tag 0x52 0 .ok .none []
        { s with alertB := { s.alertB with latch := if s.alertB.mode = .latched then false else s.alertB.latch } }))
    ∧ (1 < n.toNat → exec (.clearAlert tag 0 [n]) s = .next (answered tag 0x52 0 .refused .badParam [] s))

/-- A notice that a block emits (R154, R156 to R158): it joins the tail with the time base as its stamp; at 128 notices QUEUE_POLICY
discards it or the head, and the overflow mark is set; an arrival that takes the count to QUEUE_WATERMARK gives the
onset of QUEUE_LEVEL. Nothing but the queue and the latches changes. -/
def Obligations.NoticesArriveInOrder : Prop :=
  ∀ (body : NoticeBody) (s : State),
    let q := s.notices.queue
    let n : Notice := { stamp := s.timeBase, body := body }
    (q.length < 128 → emit body s =
      let u := { s with notices := { s.notices with queue := q ++ [n] } }
      if q.length + 1 = s.params.watermark then onset .queueLevel u else u)
    ∧ (128 ≤ q.length → s.params.policy = .keepOldest →
      emit body s = { s with notices := { s.notices with overflow := true } })
    ∧ (128 ≤ q.length → s.params.policy = .keepNewest →
      emit body s = { s with notices := { queue := q.tail ++ [n], overflow := true, carried := s.notices.carried - 1 } })

/-- The alert lines (R162 to R164) and the bits of their sources (R184): an onset sets the latch of each LATCHED line that routes its
source and nothing else; a LEVEL line is asserted while a routed source's condition holds, a LATCHED one while its latch is set. -/
def Obligations.AlertLinesFollowSources : Prop :=
  ∀ (src : AlertSource) (a : AlertLine) (s : State),
    (onset src s).alertA.latch = (s.alertA.latch || (s.alertA.mode == .latched && s.alertA.routed.getLsbD src.bit))
    ∧ (onset src s).alertB.latch = (s.alertB.latch || (s.alertB.mode == .latched && s.alertB.routed.getLsbD src.bit))
    ∧ (∃ x y : Bool, onset src s = { s with alertA := { s.alertA with latch := x }, alertB := { s.alertB with latch := y } })
    ∧ (a.mode = .latched → alertAsserted s a = a.latch)
    ∧ (a.mode = .level →
      (alertAsserted s a = true ↔ ∃ k : AlertSource, a.routed.getLsbD k.bit = true ∧ conditionHolds s k = true))
    ∧ (conditionHolds s .lostAny = true ↔ ∃ i r, s.slot i = some r ∧ r.state = .lost)
    ∧ (conditionHolds s .faultAny = true ↔ ∃ l, (s.line l).state = .fault)
    ∧ (conditionHolds s .queueLevel = true ↔ s.params.watermark ≤ s.notices.queue.length)
    ∧ (conditionHolds s .blindAny = true ↔ ∃ z r, s.zone z = some r ∧ r.state = .blind)
    ∧ (conditionHolds s .dewAny = true ↔ ∃ z r, s.zone z = some r ∧ r.state = .level .dew)
    ∧ (conditionHolds s .alertAny = true ↔
      ∃ z r, s.zone z = some r ∧ (r.state = .level .dew ∨ r.state = .level .alert))
    ∧ (conditionHolds s .watchAny = true ↔
      ∃ z r, s.zone z = some r ∧ (r.state = .level .dew ∨ r.state = .level .alert ∨ r.state = .level .watch))
    ∧ [AlertSource.watchAny, .alertAny, .dewAny, .blindAny, .lostAny, .faultAny, .queueLevel].map AlertSource.bit
        = [0, 1, 2, 3, 4, 5, 6]

/-! ### Time and the zone evaluator -/

/-- TIME_BASE_TICK (R181) and ZONE_TIMER_EXPIRY (R20, R23, R24): the time base counts one, modulo 2^32, and nothing else changes; a
timer whose expiry is reached leaves the zone, which joins the due queue or, with an idle evaluator, starts its
evaluation with the snapshot of that moment (R26). A zone whose expiry lies ahead, or with no timer, has no such event: that the
command then changes nothing is the model's choice (DESIGN CHOICE, log 1). When a stored expiry is reached is the model's
reading (DEDUCED, log 6). -/
def Obligations.TicksAndTimerExpiries : Prop :=
  (∀ s : State, exec .timeBaseTick s = .next { s with timeBase := s.timeBase + 1 })
    ∧ ∀ (z : ZoneId) (s : State),
      (∀ r t, s.zone z = some r → r.expiry = some t → reached s.timeBase t →
        (s.current ≠ none → exec (.zoneTimerExpiry z) s = .next
          { s.setZone z (some { r with expiry := none, dueMark := true }) with dueQueue := s.dueQueue ++ [z] })
        ∧ (s.current = none → s.dueQueue = [] → exec (.zoneTimerExpiry z) s = .next
          { s.setZone z (some { r with expiry := none, dueMark := false }) with
            dueQueue := [], current := some (startedFor s z r.defn) }))
      ∧ ((∀ r t, s.zone z = some r → r.expiry = some t → ¬reached s.timeBase t) →
        exec (.zoneTimerExpiry z) s = .next s)

/-- What the completion of an evaluation that is not discarded writes (R19, R40, R41, R43, R23): the zone's state, runs, latest
evaluation and timer; a PENDING bank is swapped in; the evaluator takes the head of the queue; the members are recomputed
when the state changed or a rise run began or ended, and those that this leaves due on a line in FAULT are given their
LINE_FAULT misses, in a free order (R138, log 9). Every other zone, slot, line and part is unchanged. How the
recomputation judges the earlier time is the model's reading (DEDUCED, log 12), and which outcomes are near it in the sense of R151
its choice (DESIGN CHOICE, log 23). -/
def Obligations.CompletionWritesZone : Prop :=
  ∀ (c : Current) (z : ZoneId) (r : Zone) (o : Option (Values × Bool)) (q : Qualified) (s : State),
    s.current = some c → c.zone = some z → s.zone z = some r → z ∉ s.dueQueue → (∀ y ∈ s.dueQueue, s.zone y ≠ none) →
    o = evaluate (s.tables.entriesOf c.bank) c → q = qualify c.defn r (o.map fun p => p.1.margin) →
    ∃ t, exec .evaluationCompletion s = .next t
      ∧ t.zone z = some { r with
          state := q.state, riseCount := q.riseCount, floor := q.floor, fallCount := q.fallCount, ceiling := q.ceiling
          latest := some (match o, r.state, r.latest with
            | some (v, mark), _, _ => { stamp := s.timeBase, bank := c.bank, rangeMark := mark, values := some v }
            | none, .blind, some l => { l with stamp := s.timeBase }
            | none, _, _ => { stamp := s.timeBase, bank := c.bank, rangeMark := false, values := none })
          expiry := some (s.timeBase + BitVec.ofNat 32
            (if q.state = .level .clear ∧ q.riseCount = 0 then s.params.evalSettled else s.params.evalFast)) }
      ∧ (∀ y, y ≠ z → t.zone y =
          if s.dueQueue.head? = some y then (s.zone y).map fun p => { p with dueMark := false } else s.zone y)
      ∧ t.dueQueue = s.dueQueue.tail
      ∧ (s.dueQueue = [] → t.current = none)
      ∧ (∀ y p, s.dueQueue.head? = some y → s.zone y = some p → t.current = some (startedFor t y p.defn))
      ∧ ((∀ j, s.tables.stateOf j ≠ .pending) → t.tables = s.tables)
      ∧ (∀ k old, (∀ j, s.tables.stateOf j = .pending ↔ j = k) → (∀ j, s.tables.stateOf j = .active ↔ j = old) →
          t.tables = (s.tables.setState old .standby).setState k .active)
      ∧ ((q.state ≠ r.state ∨ (q.riseCount = 0 ↔ r.riseCount ≠ 0)) → MembersRecomputed s t r.defn
          ∧ ∃ u, RecomputedTo { s with zones := t.zones } u r.defn ∧ t.slots = u.slots)
      ∧ (q.state = r.state → (q.riseCount = 0 ↔ r.riseCount = 0) → t.slots = s.slots)
      ∧ { s with zones := t.zones, dueQueue := t.dueQueue, current := t.current, slots := t.slots, tables := t.tables
                 notices := t.notices, alertA := t.alertA, alertB := t.alertB, freeCount := t.freeCount } = t

/-- What the completion of an evaluation gives the notice queue and the alert lines (R41, R42, R44): ZONE_STATE when the state
changed, with the values of a level state; what the LINE_FAULT misses of members that the recomputation leaves due on a
line in FAULT give (R138, R150); the onsets of the zone sources; TABLE_SWAP of a PENDING bank. That the misses come after
ZONE_STATE and before the onsets is the model's reading (DEDUCED, log 14), their own order is free (log 9), and the
recomputation is that of log 12 and log 23. -/
def Obligations.CompletionNotifies : Prop :=
  ∀ (c : Current) (z : ZoneId) (r : Zone) (o : Option (Values × Bool)) (q : Qualified) (s t u : State),
    s.current = some c → c.zone = some z → s.zone z = some r →
    o = evaluate (s.tables.entriesOf c.bank) c → q = qualify c.defn r (o.map fun p => p.1.margin) →
    exec .evaluationCompletion s = .next t →
    u = (if q.state = r.state then s else emit (.zoneState z r.state q.state
      (match q.state with
        | .level _ => o.map Prod.fst
        | .blind => none)) s) →
    ∃ m,
      ((q.state ≠ r.state ∨ (q.riseCount = 0 ↔ r.riseCount ≠ 0)) → RecomputedTo { u with zones := t.zones } m r.defn)
      ∧ (q.state = r.state → (q.riseCount = 0 ↔ r.riseCount = 0) → m = u)
      ∧ (¬faultedMember s r.defn → SameProbesAndNotices { m with slots := u.slots } u)
      ∧ ∀ v w, v = (onsetsOf r.state q.state).foldl (fun x src => onset src x) m →
        ((∀ j, s.tables.stateOf j ≠ .pending) ∧ w = v
          ∨ ∃ k old, (∀ j, s.tables.stateOf j = .pending ↔ j = k) ∧ (∀ j, s.tables.stateOf j = .active ↔ j = old)
              ∧ w = emit (.tableSwap k old) v) →
        t.notices = w.notices ∧ t.alertA = w.alertA ∧ t.alertB = w.alertB

/-- The completion of a discarded evaluation (R12, R41): it writes nothing and gives nothing, but a PENDING bank is swapped in and the
evaluator takes the head of the due queue. With no evaluation in progress there is no such event. -/
def Obligations.DiscardedCompletionWritesNothing : Prop :=
  ∀ (s : State),
    (s.current = none → exec .evaluationCompletion s = .next s)
    ∧ ∀ c u, s.current = some c → c.zone = none →
      ((∀ j, s.tables.stateOf j ≠ .pending) ∧ u = s
        ∨ ∃ k old, (∀ j, s.tables.stateOf j = .pending ↔ j = k) ∧ (∀ j, s.tables.stateOf j = .active ↔ j = old)
            ∧ u = swapped k old s) →
      (s.dueQueue = [] → exec .evaluationCompletion s = .next { u with current := none })
      ∧ ∀ y rest p, s.dueQueue = y :: rest → s.zone y = some p →
          exec .evaluationCompletion s = .next
            { u.setZone y (some { p with dueMark := false }) with
              dueQueue := rest, current := some (startedFor u y p.defn) }

/-- From readings to margin: the contributors of a snapshot (R25, R26) and the outcome of an evaluation (R27 to R32). -/
def Obligations.EvaluationFindsMargin : Prop :=
  -- A contributor and its sample (R25, R26): a LIVE slot with an accepted reading whose age is at most FRESH_LIMIT.
  (∀ (s : State) (i : SlotId) (x : Sample),
      contribution s i = some x ↔ ∃ r rd, s.slot i = some r ∧ r.state = .live ∧ r.reading = some rd
        ∧ (s.timeBase - rd.stamp).toNat ≤ s.params.freshLimit ∧ x = { temp := rd.temp, rh := rd.rh })
  -- The outcome of an evaluation (R27 to R32): BLIND without a contributor in either list; else the highest dew point and the lowest
  -- surface temperature, each with the member that stands earliest in its list, the margin held in 16 bits, and the range
  -- mark when any lookup was clamped.
  ∧ (∀ (es : List Entry) (c : Current) (airs surfaces : List (SlotId × Sample)) (vapour : Sample → Nat) (dew : Sample → Int),
      airs = c.air.filterMap (fun e => e.sample.map fun x => (e.slot, x)) →
      surfaces = c.surface.filterMap (fun e => e.sample.map fun x => (e.slot, x)) →
      vapour = (fun x => (forwardLookup es x.temp).1 * x.rh.getD 0 / 10000) →
      dew = (fun x => (inverseLookup es (vapour x)).1) →
      ((airs = [] ∨ surfaces = []) → evaluate es c = none)
      ∧ (airs ≠ [] → surfaces ≠ [] → ∃ v mark, evaluate es c = some (v, mark)
        ∧ (∃ before x after, airs = before ++ (v.airSlot, x) :: after ∧ v.dewPoint = dew x
            ∧ (∀ p ∈ before, dew p.2 < v.dewPoint) ∧ ∀ p ∈ after, dew p.2 ≤ v.dewPoint)
        ∧ (∃ before x after, surfaces = before ++ (v.surfaceSlot, x) :: after ∧ v.coldest = x.temp
            ∧ (∀ p ∈ before, v.coldest < p.2.temp) ∧ ∀ p ∈ after, v.coldest ≤ p.2.temp)
        ∧ v.margin = max (-32768) (min 32767 (v.coldest - v.dewPoint))
        ∧ (mark = true ↔ ∃ p ∈ airs,
            (forwardLookup es p.2.temp).2 = true ∨ (inverseLookup es (vapour p.2)).2 = true)))

/-- The raw level of a margin (R33) by the thresholds A and W, its order, and the manual's example. -/
def Obligations.RawLevelByThresholds : Prop :=
  (∀ (d : ZoneDef) (m : Int), 1 ≤ d.alert → d.alert < d.watch →
    (m ≤ 0 → rawLevel d m = .dew)
    ∧ (0 < m → m < d.alert → rawLevel d m = .alert)
    ∧ ((d.alert : Int) ≤ m → m < d.watch → rawLevel d m = .watch)
    ∧ ((d.watch : Int) ≤ m → rawLevel d m = .clear)
    ∧ ∀ n, n ≤ m → (rawLevel d m).rank ≤ (rawLevel d n).rank)
  ∧ ∀ d : ZoneDef, d.watch = 300 → d.alert = 150 →
    rawLevel d 300 = .clear ∧ rawLevel d 299 = .watch ∧ rawLevel d 150 = .watch ∧ rawLevel d 149 = .alert
      ∧ rawLevel d 1 = .alert ∧ rawLevel d 0 = .dew

/-- Qualification (R34 to R39): what an outcome does to a zone's state and runs. -/
def Obligations.QualificationFollowsRuns : Prop :=
  ∀ (d : ZoneDef) (r : Zone) (st raw release : Level) (m : Int),
    raw = rawLevel d m → release = rawLevel d (m - d.hyst) →
    (r.riseCount = 0 ↔ r.floor = none) → (r.fallCount = 0 ↔ r.ceiling = none) →
    (r.state = .level st → qualify d r none = { state := .blind, riseCount := 0, floor := none, fallCount := 0, ceiling := none })
    ∧ (r.state = .blind → qualify d r (some m)
        = { state := .level raw, riseCount := 0, floor := none, fallCount := 0, ceiling := none })
    ∧ (r.state = .blind → qualify d r none
        = { state := .blind, riseCount := r.riseCount, floor := r.floor, fallCount := r.fallCount, ceiling := r.ceiling })
    ∧ (r.state = .level st → st.rank < raw.rank → ∃ floor : Level,
        (r.floor = none → floor = raw)
        ∧ (∀ f, r.floor = some f → floor = if f.rank ≤ raw.rank then f else raw)
        ∧ qualify d r (some m) =
          if r.riseCount + 1 = d.nin
            then { state := .level floor, riseCount := 0, floor := none, fallCount := 0, ceiling := none }
            else { state := .level st, riseCount := r.riseCount + 1, floor := some floor, fallCount := 0, ceiling := none })
    ∧ (r.state = .level st → raw.rank ≤ st.rank → release.rank < st.rank → ∃ ceiling : Level,
        (r.ceiling = none → ceiling = release)
        ∧ (∀ f, r.ceiling = some f → ceiling = if f.rank ≤ release.rank then release else f)
        ∧ qualify d r (some m) =
          if r.fallCount + 1 = d.nout
            then { state := .level ceiling, riseCount := 0, floor := none, fallCount := 0, ceiling := none }
            else { state := .level st, riseCount := 0, floor := none
                   fallCount := r.fallCount + 1, ceiling := some ceiling })
    ∧ (r.state = .level st → raw.rank ≤ st.rank → st.rank ≤ release.rank →
        qualify d r (some m) = { state := .level st, riseCount := 0, floor := none, fallCount := 0, ceiling := none })

/-- The lookups in a validated table (R68, R69): clamped below the first point and from the last one on, else the straight line rounded
down; the entries of bank ROM (R51), and the manual's examples in it. -/
def Obligations.LookupsInterpolate : Prop :=
  (∀ (es : List Entry) (first last : Entry), entriesRise es → es.head? = some first → es.getLast? = some last →
    2 ≤ es.length →
    (∀ t, t < first.temp → forwardLookup es t = (first.pressure, true))
    ∧ (∀ t, last.temp ≤ t → forwardLookup es t = (last.pressure, true))
    ∧ (∀ e, e < first.pressure → inverseLookup es e = (first.temp, true))
    ∧ (∀ e, last.pressure ≤ e → inverseLookup es e = (last.temp, true))
    ∧ inverseLookup es 0 = (first.temp, true)
    ∧ ∀ i x y, es[i]? = some x → es[i + 1]? = some y →
        (∀ t, x.temp ≤ t → t < y.temp → forwardLookup es t =
          (x.pressure + (y.pressure - x.pressure) * (t - x.temp).toNat / (y.temp - x.temp).toNat, false))
        ∧ forwardLookup es x.temp = (x.pressure, false)
        ∧ (∀ e, x.pressure ≤ e → e < y.pressure → inverseLookup es e =
          (x.temp + (((y.temp - x.temp).toNat * (e - x.pressure) / (y.pressure - x.pressure) : Nat) : Int), false)))
  ∧ romEntries.map (fun x => (x.temp, x.pressure)) =
      [(-1000, 287), (-800, 336), (-600, 391), (-400, 455), (-200, 528), (0, 611), (200, 706), (400, 813)]
        ++ [(600, 934), (800, 1071), (1000, 1226), (1200, 1400), (1400, 1595), (1600, 1814), (1800, 2059), (2000, 2333)]
        ++ [(2200, 2637), (2400, 2977), (2600, 3353), (2800, 3771), (3000, 4234), (3200, 4745), (3400, 5309), (3600, 5931)]
        ++ [(3800, 6616), (4000, 7367), (4200, 8192), (4400, 9096), (4600, 10085), (4800, 11166), (5000, 12345), (5200, 13630)]
  ∧ entriesRise romEntries ∧ romEntries.length = 32
  ∧ forwardLookup romEntries 2400 = (2977, false) ∧ forwardLookup romEntries 5200 = (13630, true)
  ∧ forwardLookup romEntries (-1001) = (287, true)
  ∧ forwardLookup romEntries 2301 = (2808, false) ∧ inverseLookup romEntries 2808 = (2300, false)

/-! ### Slots: due times, outcomes, conditioning and heating -/

/-- SLOT_DUE (R143) and HEAT_END (R89, R90, R149): a schedulable slot whose next-due time is reached is due; a heat cycle whose end is
reached leaves the slot PENDING, FAST and due at once, with its notice. On a line in FAULT the slot is given its LINE_FAULT
miss at once (R138). Where the event cannot occur (a time not reached, a slot that is due already, not schedulable, not HEATING
or VACANT) nothing changes: the model's choice (DESIGN CHOICE, log 1). When a stored time is reached is the model's
reading (DEDUCED, log 6). -/
def Obligations.SlotsFallDueAndHeatsEnd : Prop :=
  (∀ (i : SlotId) (s : State), s.slot i = none → exec (.slotDue i) s = .next s ∧ exec (.heatEnd i) s = .next s)
  ∧ ∀ (i : SlotId) (r : Slot) (s : State), s.slot i = some r →
    (r.due = false → reached s.timeBase r.nextDue → r.state ≠ .heating → r.state ≠ .held →
      ((s.line r.line).state ≠ .fault → exec (.slotDue i) s = .next (s.setSlot i (some { r with due := true })))
      ∧ ((s.line r.line).state = .fault → exec (.slotDue i) s
          = .next (handOutcome i s.timeBase (.miss .lineFault) (s.setSlot i (some { r with due := true })))))
    ∧ ((r.due = true ∨ ¬reached s.timeBase r.nextDue ∨ r.state = .heating ∨ r.state = .held) →
      exec (.slotDue i) s = .next s)
    ∧ (∀ t u, r.state = .heating → r.heatEnd = some t → reached s.timeBase t →
      u = emit (.probeState i .heating .pending r.lastOutcome) (s.setSlot i (some { r with
        state := .pending, pace := .fast, nextDue := s.timeBase, due := true, heatEnd := none })) →
      ((s.line r.line).state ≠ .fault → exec (.heatEnd i) s = .next u)
      ∧ ((s.line r.line).state = .fault → exec (.heatEnd i) s
          = .next (handOutcome i s.timeBase (.miss .lineFault) u)))
    ∧ ((r.state ≠ .heating ∨ ∀ t, r.heatEnd = some t → ¬reached s.timeBase t) → exec (.heatEnd i) s = .next s)

/-- A miss handed on (R86, R90, R91, R134, R138, R148): the last poll time is written, the count goes up to at most 15, a PENDING or LIVE
slot at MISS_LIMIT is LOST with its heater marks cleared, its notice and its onset, and the next-due time is advanced. An outcome, whose
transaction is no longer in flight, and a recomputation by new zones, taken in one tick, leave a schedulable slot whose line is not in FAULT at its new last poll time plus the
pace of the new zones in either order (R151; the same tick is the model's choice, DESIGN CHOICE, log 23), and with POLL_FAST equal to
POLL_SETTLED a recomputation changes no next-due time (R152). -/
def Obligations.MissesAreCounted : Prop :=
  (∀ (i : SlotId) (r p q : Slot) (at' : Time) (o : ProbeOutcome) (s : State), s.slot i = some r → r.misses ≤ 15 →
    p = { r with lastPoll := at', misses := min (r.misses + 1) 15, lastOutcome := o } →
    q = { p with state := .lost, run := 0, armed := none, deferred := false } →
    ((r.state = .pending ∨ r.state = .live) → s.params.missLimit ≤ p.misses →
      handOutcome i at' (.miss o) s = onset .lostAny (emit (.probeState i r.state .lost o)
        (s.setSlot i (some (advanced s i q)))))
    ∧ (((r.state ≠ .pending ∧ r.state ≠ .live) ∨ p.misses < s.params.missLimit) →
      handOutcome i at' (.miss o) s = s.setSlot i (some (advanced s i p))))
  ∧ (∀ (i : SlotId) (r : Slot) (at' : Time) (rep : Report) (zs : Vector (Option Zone) 24) (s : State), s.slot i = some r →
    onFaultLine s i = false →
    s.params.pollFast ≤ s.params.pollSettled → s.params.pollSettled ≤ 6000 →
    ∀ w p, w = (if paceOf { s with zones := zs } i p = .fast then s.params.pollFast else s.params.pollSettled) →
      p.state ≠ .heating → p.state ≠ .held →
      (pollInFlight s i r = false →
        (recompute i { handOutcome i at' rep s with zones := zs }).slot i = some p → p.nextDue = at' + BitVec.ofNat 32 w)
      ∧ ((handOutcome i at' rep (recompute i { s with zones := zs })).slot i = some p → p.nextDue = at' + BitVec.ofNat 32 w))
  ∧ (∀ (i : SlotId) (r : Slot) (s : State), s.slot i = some r → onFaultLine s i = false →
    s.params.pollFast = s.params.pollSettled → ((recompute i s).slot i).map Slot.nextDue = some r.nextDue)

/-- A GOOD reply handed on (R81, R84, R85, R88, R90, R134, R148). READ: a rejected reading is an IMPLAUSIBLE miss; an accepted one is
stored, the misses are 0, a PENDING or LOST slot is LIVE with its notice, and the heater controller sees the humidity of a
LIVE air slot. HEAT: the slot is HEATING for HEAT_TIME plus RECOVERY_TIME seconds, its reading discarded and its marks
cleared, with its notice; a HELD slot stays HELD and loses its reading. -/
def Obligations.GoodRepliesAreTaken : Prop :=
  ∀ (i : SlotId) (r : Slot) (at' : Time) (s : State), s.slot i = some r →
    (∀ (code : Nat) (rhCode : Option Nat) (p : Slot) (u w : State) (rd : Reading), rd = calibrate s r code rhCode →
      (plausible s r rd = false →
        handOutcome i at' (.goodRead code rhCode) s = handOutcome i at' (.miss .implausible) s)
      ∧ (plausible s r rd = true →
        p = { r with lastPoll := at', reading := some rd, misses := 0, lastOutcome := .good
                     state := if r.state = .pending ∨ r.state = .lost then .live else r.state } →
        u = (if r.state = .pending ∨ r.state = .lost then emit (.probeState i r.state .live .good) (s.setSlot i (some p))
          else s.setSlot i (some p)) →
        w = (match rd.rh with
          | some h => if p.state = .live ∧ r.kind = .air then heaterSees i h u else u
          | none => u) →
        ∀ x, w.slot i = some x → handOutcome i at' (.goodRead code rhCode) s = w.setSlot i (some (advanced s i x))))
    ∧ (r.state = .held → handOutcome i at' .goodHeat s
        = s.setSlot i (some { r with lastPoll := at', reading := none, misses := 0, lastOutcome := .good }))
    ∧ (r.state ≠ .held → handOutcome i at' .goodHeat s = emit (.probeState i r.state .heating .good)
        (s.setSlot i (some { r with
          state := .heating, lastPoll := at', reading := none, misses := 0, lastOutcome := .good
          run := 0, armed := none, deferred := false
          heatEnd := some (s.timeBase + BitVec.ofNat 32 ((s.params.heatTime + s.params.recoveryTime) * 10)) })))

/-- The reading that raw codes give, and whether it is accepted (R95 to R102): widening, scale, offsets, the clamp of humidity, the range
test and the step test against a fresh reading. -/
def Obligations.ConditioningFollowsRules : Prop :=
  (∀ (c : ResClass) (w : Widening) (code : Nat),
    (c = .c16 → widen c w code = code)
    ∧ (c = .c8 → code < 256 → widen c w code = 256 * code + match w with
        | .zero => 0
        | .ones => 255
        | .repeatTop => code
        | .mid => 128)
    ∧ (c = .c12 → code < 4096 → widen c w code = 16 * code + match w with
        | .zero => 0
        | .ones => 15
        | .repeatTop => code / 256
        | .mid => 8))
  ∧ ∀ (s : State) (r : Slot) (code : Nat) (rhCode : Option Nat),
      (calibrate s r code rhCode).temp
          = -4000 + ((widen r.cls r.rule code * 12500 / 65536 : Nat) : Int) + r.tempOffset
      ∧ (calibrate s r code rhCode).stamp = s.timeBase
      ∧ (r.kind = .surface → (calibrate s r code rhCode).rh = none)
      ∧ (∀ h x, r.kind = .air → rhCode = some h →
          x = ((widen r.cls r.rule h * 10000 / 65535 : Nat) : Int) + r.rhOffset →
          (calibrate s r code rhCode).rh = some (if x < 0 then 0 else if 10000 < x then 10000 else x.toNat))
      ∧ ∀ rd : Reading, plausible s r rd = true ↔ -4000 ≤ rd.temp ∧ rd.temp ≤ 8499
          ∧ ∀ old, r.reading = some old → (s.timeBase - old.stamp).toNat ≤ s.params.freshLimit →
              (rd.temp - old.temp).natAbs ≤ s.params.stepLimit

/-- The heater controller's view of an accepted humidity (R109 to R114, R120): the run count, the arming by the rule where every zone
that names the slot in its air list is served without it, the deferral with its one notice where one is not, and the end
of a run, which an arming by force outlives. -/
def Obligations.HeaterControllerArmsOrDefers : Prop :=
  ∀ (i : SlotId) (r p : Slot) (h : Nat) (s : State), s.slot i = some r → r.run ≤ 15 →
    p = { r with run := min (r.run + 1) 15 } →
    (h < s.params.satLimit → heaterSees i h s = s.setSlot i (some { r with
      run := 0, deferred := false, armed := if r.armed = some .rule then none else r.armed }))
    ∧ (s.params.satLimit ≤ h → (r.armed ≠ none ∨ p.run < s.params.satCount) → heaterSees i h s = s.setSlot i (some p))
    ∧ (s.params.satLimit ≤ h → r.armed = none → s.params.satCount ≤ p.run →
      ((∀ z zr, s.zone z = some zr → i ∈ zr.defn.air → servedWithout s i zr) →
        heaterSees i h s = s.setSlot i (some { p with armed := some .rule }))
      ∧ ∀ z zr, s.zone z = some zr → i ∈ zr.defn.air → ¬servedWithout s i zr →
        (∀ y < z, ∀ yr, s.zone y = some yr → i ∈ yr.defn.air → servedWithout s i yr) →
        (r.deferred = true → heaterSees i h s = s.setSlot i (some p))
        ∧ (r.deferred = false → heaterSees i h s
            = emit (.heatDeferred i z) (s.setSlot i (some { p with deferred := true }))))

/-! ### Probe lines: polls and replies -/

/-- POLL_START (R117, R128, R144 to R146): an IDLE line at the idle level polls its due slot that comes first in the ring after the
last-served slot; the record copies what the poll is judged by, PLn-DE goes active and the slot is last-served. With no
due slot, or on any other line, no poll begins. The characters of the poll are those of R193. -/
def Obligations.PollStartSendsToFirstInRing : Prop :=
  ∀ (l : LineId) (s : State),
    (∀ i r, (s.line l).state = .idle → (s.line l).activeLevel = false → s.slot i = some r → dueAt s l i →
      (∀ j, dueAt s l j → j ≠ i → ringPlace (s.line l).lastServed i < ringPlace (s.line l).lastServed j) →
      ∃ t : Txn, exec (.pollStart l) s
          = .next (s.setLine l { s.line l with state := .busy t, lastServed := some i, driveEnable := true })
        ∧ t.slot = i ∧ t.address = r.address ∧ t.cls = r.cls ∧ t.pollStart = s.timeBase ∧ t.phase = .sending
        ∧ t.orphan = false ∧ t.received = [] ∧ t.framingWait = false
        ∧ (r.armed = none → t.command = .read
            ∧ t.expected = (match r.kind, r.cls with
                | .surface, .c8 => 1
                | .surface, _ => 2
                | .air, .c8 => 2
                | .air, _ => 4)
            ∧ t.pollCharacters = [(true, byte r.address), (false, 0x01)])
        ∧ (r.armed ≠ none → t.command = .heat s.params.heatTime ∧ t.expected = 1
            ∧ t.pollCharacters = [(true, byte r.address), (false, 0x02), (false, byte s.params.heatTime)]))
    ∧ (((s.line l).state ≠ .idle ∨ (s.line l).activeLevel = true ∨ ∀ i, ¬dueAt s l i) →
      exec (.pollStart l) s = .next s)

/-- The phases of a transaction: POLL_SENT ends SENDING (R128, R136), REPLY_TIMEOUT in AWAITING completes it SILENT (R129), DISCARDING_END
and TURNAROUND_END lead it out (R130, R133). In any other phase, and on a line that is not BUSY, each changes nothing. -/
def Obligations.TransactionsPassTheirPhases : Prop :=
  ∀ (l : LineId) (s : State),
    (∀ t, (s.line l).state = .busy t →
      (t.phase = .sending → exec (.pollSent l) s = .next (s.setLine l { s.line l with
        state := .busy { t with phase := .awaiting }, driveEnable := false, activeStretch := (s.line l).activeLevel }))
      ∧ (t.phase ≠ .sending → exec (.pollSent l) s = .next s)
      ∧ (t.phase = .awaiting → exec (.replyTimeout l) s = .next (handedOn t (.miss .silent)
          (s.setLine l { s.line l with state := .busy { t with phase := .turnaround, framingWait := false } })))
      ∧ (t.phase ≠ .awaiting → exec (.replyTimeout l) s = .next s)
      ∧ (t.phase = .discarding → (s.line l).activeLevel = false → exec (.discardingEnd l) s
          = .next (s.setLine l { s.line l with state := .busy { t with phase := .turnaround } }))
      ∧ ((t.phase ≠ .discarding ∨ (s.line l).activeLevel = true) → exec (.discardingEnd l) s = .next s)
      ∧ (t.phase = .turnaround → exec (.turnaroundEnd l) s = .next (s.setLine l { s.line l with state := .idle }))
      ∧ (t.phase ≠ .turnaround → exec (.turnaroundEnd l) s = .next s))
    ∧ ((∀ t, (s.line l).state ≠ .busy t) →
      exec (.pollSent l) s = .next s ∧ exec (.replyTimeout l) s = .next s ∧ exec (.discardingEnd l) s = .next s
        ∧ exec (.turnaroundEnd l) s = .next s)

/-- The levels of PLn-D (R129, R131, R136, R139): leaving the idle level begins an active stretch on a watched line, and in AWAITING the
reception of a reply, and ends a rest stretch in FAULT; returning ends the active stretch, completes MALFORMED a reply with a
framing error, and begins a rest stretch in FAULT. -/
def Obligations.LineLevelsAreWatched : Prop :=
  ∀ (l : LineId) (s : State),
    ((s.line l).activeLevel = false →
      ((s.line l).state = .off → exec (.lineLeavesIdleLevel l) s
          = .next (s.setLine l { s.line l with activeLevel := true }))
      ∧ ((s.line l).state = .idle → exec (.lineLeavesIdleLevel l) s
          = .next (s.setLine l { s.line l with activeLevel := true, activeStretch := true }))
      ∧ ((s.line l).state = .fault → exec (.lineLeavesIdleLevel l) s
          = .next (s.setLine l { s.line l with activeLevel := true, restStretch := false }))
      ∧ (∀ t, (s.line l).state = .busy t →
        (t.phase = .sending → exec (.lineLeavesIdleLevel l) s
          = .next (s.setLine l { s.line l with activeLevel := true }))
        ∧ (t.phase = .awaiting → exec (.lineLeavesIdleLevel l) s = .next (s.setLine l { s.line l with
            activeLevel := true, activeStretch := true, state := .busy { t with phase := .receiving } }))
        ∧ (t.phase ≠ .sending → t.phase ≠ .awaiting → exec (.lineLeavesIdleLevel l) s
          = .next (s.setLine l { s.line l with activeLevel := true, activeStretch := true })))
      ∧ exec (.lineReturnsToIdleLevel l) s = .next s)
    ∧ ((s.line l).activeLevel = true →
      exec (.lineLeavesIdleLevel l) s = .next s
      ∧ ((s.line l).state = .fault → exec (.lineReturnsToIdleLevel l) s = .next
          (s.setLine l { s.line l with activeLevel := false, activeStretch := false, restStretch := true }))
      ∧ (∀ t, (s.line l).state = .busy t → t.phase = .receiving → t.framingWait = true →
          exec (.lineReturnsToIdleLevel l) s = .next (handedOn t (.miss .malformed) (s.setLine l { s.line l with
            activeLevel := false, activeStretch := false
            state := .busy { t with phase := .discarding, framingWait := false } })))
      ∧ ((s.line l).state ≠ .fault →
          (∀ t, (s.line l).state = .busy t → t.phase = .receiving → t.framingWait = false) →
          exec (.lineReturnsToIdleLevel l) s
            = .next (s.setLine l { s.line l with activeLevel := false, activeStretch := false })))

/-- The characters of a probe line and what they do to a reply. Outside RECEIVING, and after a framing error, they are ignored (R127,
R128, R130, R131, R133, R137). -/
def Obligations.ReplyCharactersAreJudged : Prop :=
  -- REPLY_CHARACTER, REPLY_FRAMING_ERROR and REPLY_GAP_TIMEOUT (R130, R131): a character before the check character passes its test and
  -- is kept, or completes the transaction WRONG_ADDRESS or MALFORMED; a framing error suspends the judgement; a gap after a
  -- character completes it MALFORMED. The line is left at the idle level by a character, at the active level by a framing
  -- error (DEDUCED, log 13). A gap with no character before it, or at the active level, is no event: that REPLY_GAP_TIMEOUT then
  -- changes nothing is the model's choice (DESIGN CHOICE, log 1).
  (∀ (l : LineId) (t : Txn) (bits : BitVec 9) (mark : Bool) (value : Byte) (ln : Line) (s : State),
      (s.line l).state = .busy t → t.phase = .receiving → t.framingWait = false →
      mark = markOf (s.line l).order bits → value = valueOf (s.line l).order bits →
      ln = { s.line l with activeLevel := false, activeStretch := false } →
      (t.received.length < t.expected + 2 →
        ((t.received.length = 0 ∧ mark = true ∧ value.toNat = t.address
            ∨ t.received.length = 1 ∧ mark = false ∧ value.toNat = t.expected
            ∨ 2 ≤ t.received.length ∧ mark = false) →
          exec (.replyCharacter l bits) s = .next (s.setLine l { ln with
            state := .busy { t with received := t.received ++ [value] } }))
        ∧ (t.received.length = 0 → (mark = false ∨ value.toNat ≠ t.address) →
          exec (.replyCharacter l bits) s = .next (handedOn t (.miss .wrongAddress)
            (s.setLine l { ln with state := .busy { t with phase := .discarding, framingWait := false } }))))
      ∧ ((0 < t.received.length ∧ mark = true ∨ t.received.length = 1 ∧ value.toNat ≠ t.expected) →
          exec (.replyCharacter l bits) s = .next (handedOn t (.miss .malformed)
            (s.setLine l { ln with state := .busy { t with phase := .discarding, framingWait := false } })))
      ∧ exec (.replyFramingError l) s = .next (s.setLine l { s.line l with
          activeLevel := true, activeStretch := true, state := .busy { t with framingWait := true } })
      ∧ (t.received ≠ [] → (s.line l).activeLevel = false →
          exec (.replyGapTimeout l) s = .next (handedOn t (.miss .malformed)
            (s.setLine l { s.line l with state := .busy { t with phase := .turnaround, framingWait := false } })))
      ∧ ((t.received = [] ∨ (s.line l).activeLevel = true) → exec (.replyGapTimeout l) s = .next s))
  -- On a line with no reply in reception, or one whose reply had a framing error, no character does anything; that
  -- REPLY_GAP_TIMEOUT does nothing there either is the model's choice (DESIGN CHOICE, log 1).
  ∧ (∀ (l : LineId) (bits : BitVec 9) (s : State),
      (∀ t, (s.line l).state = .busy t → t.phase = .receiving → t.framingWait = true) →
      exec (.replyCharacter l bits) s = .next s ∧ exec (.replyFramingError l) s = .next s
        ∧ exec (.replyGapTimeout l) s = .next s)
  -- The bits of a character on a line (R123): LSB-FIRST sends value then mark, MSB-FIRST the same nine bits in the opposite order; what
  -- one end sends the other reads.
  ∧ (∀ (order : BitOrder) (mark : Bool) (value : Byte) (bits : BitVec 9),
      markOf order (dataBits order mark value) = mark ∧ valueOf order (dataBits order mark value) = value
      ∧ dataBits order (markOf order bits) (valueOf order bits) = bits
      ∧ markOf .lsbFirst bits = bits.getLsbD 8 ∧ markOf .msbFirst bits = bits.getLsbD 0
      ∧ ∀ k < 8, (valueOf .lsbFirst bits).getLsbD k = bits.getLsbD k
          ∧ (valueOf .msbFirst bits).getLsbD k = bits.getLsbD (8 - k))

/-- REPLY_COMPLETE (R132): the check character of a reply is judged against the CRC-8 of length and payload, then a C12 field by its
upper bits and a heat echo by its duration; a GOOD reply to READ gives the raw codes, high character first. The
transaction passes to TURNAROUND. The check character leaves the line at the idle level with no active stretch (DEDUCED, log 13).
On a line with no reply in reception, or after a framing error, it is ignored (R130, R131, R133, R137). REPLY_CHARACTER at
the place of the check character is the same event. -/
def Obligations.WholeRepliesAreJudged : Prop :=
  (∀ (l : LineId) (bits : BitVec 9) (s : State),
      exec (.replyComplete l bits) s = exec (.replyCharacter l bits) s
      ∧ ((∀ t, (s.line l).state = .busy t → t.phase = .receiving → t.framingWait = true) →
          exec (.replyComplete l bits) s = .next s))
  ∧ ∀ (l : LineId) (t : Txn) (bits : BitVec 9) (first : Byte) (payload : List Byte) (ln : Line) (done : Report → State)
    (s : State),
    (s.line l).state = .busy t → t.phase = .receiving → t.framingWait = false →
    t.received = first :: byte t.expected :: payload → payload.length = t.expected →
    markOf (s.line l).order bits = false →
    ln = { s.line l with activeLevel := false, activeStretch := false } →
    done = (fun rep => handedOn t rep
      (s.setLine l { ln with state := .busy { t with phase := .turnaround, framingWait := false } })) →
    (crc8 (byte t.expected :: payload) ≠ valueOf (s.line l).order bits →
      exec (.replyComplete l bits) s = .next (done (.miss .badCheck)))
    ∧ (crc8 (byte t.expected :: payload) = valueOf (s.line l).order bits →
      (∀ d x, t.command = .heat d → payload = [x] →
        exec (.replyComplete l bits) s = .next (done (if x.toNat = d then .goodHeat else .miss .malformed)))
      ∧ (∀ x, t.command = .read → t.cls = .c8 → payload = [x] →
        exec (.replyComplete l bits) s = .next (done (.goodRead x.toNat none)))
      ∧ (∀ x y, t.command = .read → t.cls = .c8 → payload = [x, y] →
        exec (.replyComplete l bits) s = .next (done (.goodRead x.toNat (some y.toNat))))
      ∧ (∀ h x, t.command = .read → t.cls ≠ .c8 → payload = [h, x] →
        exec (.replyComplete l bits) s = .next (done (if t.cls = .c12 ∧ 16 ≤ h.toNat then .miss .malformed
          else .goodRead (256 * h.toNat + x.toNat) none)))
      ∧ (∀ h x g y, t.command = .read → t.cls ≠ .c8 → payload = [h, x, g, y] →
        exec (.replyComplete l bits) s = .next (done
          (if t.cls = .c12 ∧ (16 ≤ h.toNat ∨ 16 ≤ g.toNat) then .miss .malformed
            else .goodRead (256 * h.toNat + x.toNat) (some (256 * g.toNat + y.toNat))))))

/-- LINE_FAULT_ENTRY and LINE_RECOVERY (R137 to R139): the transaction goes, the line is FAULT with its notice and onset, a transaction
that had not completed hands on LINE_FAULT, and then every due slot of the line is given a miss, in an order that the
manual leaves free (log 9); a rest stretch that has reached the fault time makes the line IDLE with its notice. With no active
stretch or no rest stretch being measured there is no such event: that the command then changes nothing is the model's
choice (DESIGN CHOICE, log 1). -/
def Obligations.LinesEnterFaultAndRecover : Prop :=
  ∀ (l : LineId) (s : State),
    (∀ u v, ((s.line l).state = .idle ∨ ∃ t, (s.line l).state = .busy t) → (s.line l).activeStretch = true →
      u = onset .faultAny (emit (.lineState l (s.line l).state.name .fault) (s.setLine l { s.line l with
        state := .fault, driveEnable := false, activeStretch := false, restStretch := false })) →
      v = (match (s.line l).state with
        | .busy t => if t.phase = .sending ∨ t.phase = .awaiting ∨ t.phase = .receiving
            then handedOn t (.miss .lineFault) u else u
        | _ => u) →
      ∃ (order : List SlotId) (n : Nat), order.Nodup ∧ (∀ i, i ∈ order ↔ dueAt v l i)
        ∧ exec (.lineFaultEntry l) s = .next
            (order.foldl (fun x i => handOutcome i x.timeBase (.miss .lineFault) x) { v with freeCount := n }))
    ∧ (((s.line l).activeStretch = false ∨ (s.line l).state = .off ∨ (s.line l).state = .fault) →
      exec (.lineFaultEntry l) s = .next s)
    ∧ ((s.line l).state = .fault → (s.line l).restStretch = true → exec (.lineRecovery l) s
        = .next (emit (.lineState l .fault .idle) (s.setLine l { s.line l with state := .idle, restStretch := false })))
    ∧ (((s.line l).state ≠ .fault ∨ (s.line l).restStretch = false) → exec (.lineRecovery l) s = .next s)

/-! ### Checks on the wire -/

/-- The two check computations, step by step, with the examples of the manual. -/
def Obligations.CheckComputationsFollowSteps : Prop :=
  -- The CRC-8 of a probe reply (R195), step by step, and the manual's example: a heat reply echoing 20 s is GOOD with the check 0xF2 and
  -- BAD_CHECK with any other.
  (crc8 [] = 0xFF
      ∧ (∀ (values : List Byte) (v : Byte), crc8 (values ++ [v]) = (List.range 8).foldl
          (fun (reg : Byte) _ => if 128 ≤ reg.toNat then (reg <<< 1) ^^^ 0x31 else reg <<< 1) (crc8 values ^^^ v))
      ∧ crc8 [0x01] = 0x9D ∧ crc8 [0x01, 0x14] = 0xF2 ∧ (0x9D ^^^ 0x14 : Byte) = 0x89
      ∧ ([1, 2, 3, 4, 5, 6, 7, 8].map fun n => (List.range n).foldl
          (fun (reg : Byte) _ => if 128 ≤ reg.toNat then (reg <<< 1) ^^^ 0x31 else reg <<< 1) 0x89)
        = [0x23, 0x46, 0x8C, 0x29, 0x52, 0xA4, 0x79, 0xF2]
      ∧ (∀ (t : Txn) (address check : Byte) (values : List Byte), t.received = address :: values →
          (judgeReply t check = .miss .badCheck ↔ crc8 values ≠ check))
      ∧ ∀ (t : Txn) (address check : Byte), t.command = .heat 20 → t.received = [address, 0x01, 0x14] →
          judgeReply t check = if check = 0xF2 then .goodHeat else .miss .badCheck)
  -- The CRC-16 of the station link (R194), step by step, and the manual's two examples.
  ∧ (crc16 [] = 0xFFFF
      ∧ (∀ (start : Word16) (bytes : List Byte) (b : Byte), crc16From start (bytes ++ [b]) = (List.range 8).foldl
          (fun (reg : Word16) _ => if 32768 ≤ reg.toNat then (reg <<< 1) ^^^ 0x1021 else reg <<< 1)
          (crc16From start bytes ^^^ (b.setWidth 16 <<< 8)))
      ∧ (∀ start : Word16, crc16From start [] = start) ∧ (∀ bytes, crc16 bytes = crc16From 0xFFFF bytes)
      ∧ crc16 [0x31, 0x32, 0x33, 0x34, 0x35, 0x36, 0x37, 0x38, 0x39] = 0x29B1 ∧ crc16 [0x00] = 0xE1F0)

/-! ### Laws that every step keeps -/

/-- The laws hold in the state after reset. -/
def Obligations.LawsHoldAtReset : Prop :=
  ParamsLaw State.reset ∧ QueueLaw State.reset ∧ TablesLaw State.reset ∧ CycleLaw State.reset ∧ RunsLaw State.reset
    ∧ LinesLaw State.reset ∧ SlotsLaw State.reset ∧ MembershipLaw State.reset ∧ LinkLaw State.reset

/-- Every step keeps the ranges of the parameters and the bound of the notice queue. -/
def Obligations.StepKeepsParamsAndQueueLaws : Prop :=
  -- Every step keeps the parameters in their ranges and pairs (R177, R178).
  (∀ s t : State, ParamsLaw s → step s = .next t → ParamsLaw t)
  -- Every step keeps the notice queue within 128 notices, and the carried ones within the queue (R156, R159).
  ∧ (∀ s t : State, QueueLaw s → step s = .next t → QueueLaw t)

/-- Every step keeps the laws of the banks: one ACTIVE, at most one PENDING and one LOADING, validated contents, the cursor on the
LOADING bank, and no swap during an evaluation (R47, R50 to R53, R56, R64). -/
def Obligations.StepKeepsTablesLaw : Prop := ∀ s t : State, TablesLaw s → step s = .next t → TablesLaw t

/-- Every step keeps the laws of the due queue and of the three positions of a zone (R6, R22, R23). -/
def Obligations.StepKeepsCycleLaw : Prop := ∀ s t : State, CycleLaw s → step s = .next t → CycleLaw t

/-- Every step keeps the definitions and the runs valid (R2, R3, R5, R36, R37); the law of the cycle is needed, which rules out an
evaluation of an IDLE zone. -/
def Obligations.StepKeepsRunsLaw : Prop := ∀ s t : State, CycleLaw s → RunsLaw s → step s = .next t → RunsLaw t

/-- Every step keeps the laws of the probe lines: PLn-DE, the stretches, the phases and the setup (R126, R128, R136, R139). -/
def Obligations.StepKeepsLinesLaw : Prop := ∀ s t : State, LinesLaw s → step s = .next t → LinesLaw t

/-- Every step keeps the laws of the slots and of the transactions that are in flight for them (R72, R73, R108, R121, R135). -/
def Obligations.StepKeepsSlotsLaw : Prop := ∀ s t : State, SlotsLaw s → step s = .next t → SlotsLaw t

/-- Every step keeps the two laws of membership (R4). -/
def Obligations.StepKeepsMembershipLaw : Prop := ∀ s t : State, MembershipLaw s → step s = .next t → MembershipLaw t

/-- Every step keeps the laws of the exchange, its frames and the partial frame (R169, R170, R173 to R175). -/
def Obligations.StepKeepsLinkLaw : Prop := ∀ s t : State, LinkLaw s → step s = .next t → LinkLaw t

end
end

