-- ==== Sys2Proof/Laws/State.lean ====
section
/-! SUPPORT. Reading a slot, zone or line after an update: one lemma per field per update. -/

namespace Sys2Proof.Machine

/-! ### Slots -/

@[simp] theorem slot_setSlot_same (s : State) (i : SlotId) (r : Option Slot) : (s.setSlot i r).slot i = r := by
  show (s.slots.set i.val r i.isLt)[i.val] = r
  simp

theorem slot_setSlot_other (s : State) {i j : SlotId} (r : Option Slot) (h : i ≠ j) :
    (s.setSlot i r).slot j = s.slot j := by
  have : i.val ≠ j.val := fun e => h (Fin.ext e)
  show (s.slots.set i.val r i.isLt)[j.val] = s.slots[j.val]
  simp [this]

theorem slot_setSlot (s : State) (i j : SlotId) (r : Option Slot) :
    (s.setSlot i r).slot j = if i = j then r else s.slot j := by
  by_cases h : i = j
  · subst h; simp
  · simp [h, slot_setSlot_other s r h]

@[simp] theorem setSlot_timeBase (s : State) (i : SlotId) (r : Option Slot) : (s.setSlot i r).timeBase = s.timeBase := rfl
@[simp] theorem setSlot_params (s : State) (i : SlotId) (r : Option Slot) : (s.setSlot i r).params = s.params := rfl
@[simp] theorem setSlot_link (s : State) (i : SlotId) (r : Option Slot) : (s.setSlot i r).link = s.link := rfl
@[simp] theorem setSlot_tables (s : State) (i : SlotId) (r : Option Slot) : (s.setSlot i r).tables = s.tables := rfl
@[simp] theorem setSlot_zones (s : State) (i : SlotId) (r : Option Slot) : (s.setSlot i r).zones = s.zones := rfl
@[simp] theorem setSlot_dueQueue (s : State) (i : SlotId) (r : Option Slot) : (s.setSlot i r).dueQueue = s.dueQueue := rfl
@[simp] theorem setSlot_current (s : State) (i : SlotId) (r : Option Slot) : (s.setSlot i r).current = s.current := rfl
@[simp] theorem setSlot_lines (s : State) (i : SlotId) (r : Option Slot) : (s.setSlot i r).lines = s.lines := rfl
@[simp] theorem setSlot_notices (s : State) (i : SlotId) (r : Option Slot) : (s.setSlot i r).notices = s.notices := rfl
@[simp] theorem setSlot_alertA (s : State) (i : SlotId) (r : Option Slot) : (s.setSlot i r).alertA = s.alertA := rfl
@[simp] theorem setSlot_alertB (s : State) (i : SlotId) (r : Option Slot) : (s.setSlot i r).alertB = s.alertB := rfl
@[simp] theorem setSlot_freeCount (s : State) (i : SlotId) (r : Option Slot) : (s.setSlot i r).freeCount = s.freeCount := rfl
@[simp] theorem setSlot_pending (s : State) (i : SlotId) (r : Option Slot) : (s.setSlot i r).pending = s.pending := rfl
@[simp] theorem setSlot_zone (s : State) (i : SlotId) (r : Option Slot) (z : ZoneId) : (s.setSlot i r).zone z = s.zone z := rfl
@[simp] theorem setSlot_line (s : State) (i : SlotId) (r : Option Slot) (l : LineId) : (s.setSlot i r).line l = s.line l := rfl

/-! ### Zones -/

@[simp] theorem zone_setZone_same (s : State) (z : ZoneId) (r : Option Zone) : (s.setZone z r).zone z = r := by
  show (s.zones.set z.val r z.isLt)[z.val] = r
  simp

theorem zone_setZone_other (s : State) {z y : ZoneId} (r : Option Zone) (h : z ≠ y) :
    (s.setZone z r).zone y = s.zone y := by
  have : z.val ≠ y.val := fun e => h (Fin.ext e)
  show (s.zones.set z.val r z.isLt)[y.val] = s.zones[y.val]
  simp [this]

theorem zone_setZone (s : State) (z y : ZoneId) (r : Option Zone) :
    (s.setZone z r).zone y = if z = y then r else s.zone y := by
  by_cases h : z = y
  · subst h; simp
  · simp [h, zone_setZone_other s r h]

@[simp] theorem setZone_timeBase (s : State) (z : ZoneId) (r : Option Zone) : (s.setZone z r).timeBase = s.timeBase := rfl
@[simp] theorem setZone_params (s : State) (z : ZoneId) (r : Option Zone) : (s.setZone z r).params = s.params := rfl
@[simp] theorem setZone_link (s : State) (z : ZoneId) (r : Option Zone) : (s.setZone z r).link = s.link := rfl
@[simp] theorem setZone_tables (s : State) (z : ZoneId) (r : Option Zone) : (s.setZone z r).tables = s.tables := rfl
@[simp] theorem setZone_dueQueue (s : State) (z : ZoneId) (r : Option Zone) : (s.setZone z r).dueQueue = s.dueQueue := rfl
@[simp] theorem setZone_current (s : State) (z : ZoneId) (r : Option Zone) : (s.setZone z r).current = s.current := rfl
@[simp] theorem setZone_slots (s : State) (z : ZoneId) (r : Option Zone) : (s.setZone z r).slots = s.slots := rfl
@[simp] theorem setZone_lines (s : State) (z : ZoneId) (r : Option Zone) : (s.setZone z r).lines = s.lines := rfl
@[simp] theorem setZone_notices (s : State) (z : ZoneId) (r : Option Zone) : (s.setZone z r).notices = s.notices := rfl
@[simp] theorem setZone_alertA (s : State) (z : ZoneId) (r : Option Zone) : (s.setZone z r).alertA = s.alertA := rfl
@[simp] theorem setZone_alertB (s : State) (z : ZoneId) (r : Option Zone) : (s.setZone z r).alertB = s.alertB := rfl
@[simp] theorem setZone_freeCount (s : State) (z : ZoneId) (r : Option Zone) : (s.setZone z r).freeCount = s.freeCount := rfl
@[simp] theorem setZone_pending (s : State) (z : ZoneId) (r : Option Zone) : (s.setZone z r).pending = s.pending := rfl
@[simp] theorem setZone_slot (s : State) (z : ZoneId) (r : Option Zone) (i : SlotId) : (s.setZone z r).slot i = s.slot i := rfl
@[simp] theorem setZone_line (s : State) (z : ZoneId) (r : Option Zone) (l : LineId) : (s.setZone z r).line l = s.line l := rfl

/-! ### Lines -/

@[simp] theorem line_setLine_same (s : State) (l : LineId) (r : Line) : (s.setLine l r).line l = r := by
  show (s.lines.set l.val r l.isLt)[l.val] = r
  simp

theorem line_setLine_other (s : State) {l k : LineId} (r : Line) (h : l ≠ k) : (s.setLine l r).line k = s.line k := by
  have : l.val ≠ k.val := fun e => h (Fin.ext e)
  show (s.lines.set l.val r l.isLt)[k.val] = s.lines[k.val]
  simp [this]

theorem line_setLine (s : State) (l k : LineId) (r : Line) :
    (s.setLine l r).line k = if l = k then r else s.line k := by
  by_cases h : l = k
  · subst h; simp
  · simp [h, line_setLine_other s r h]

@[simp] theorem setLine_timeBase (s : State) (l : LineId) (r : Line) : (s.setLine l r).timeBase = s.timeBase := rfl
@[simp] theorem setLine_params (s : State) (l : LineId) (r : Line) : (s.setLine l r).params = s.params := rfl
@[simp] theorem setLine_link (s : State) (l : LineId) (r : Line) : (s.setLine l r).link = s.link := rfl
@[simp] theorem setLine_tables (s : State) (l : LineId) (r : Line) : (s.setLine l r).tables = s.tables := rfl
@[simp] theorem setLine_zones (s : State) (l : LineId) (r : Line) : (s.setLine l r).zones = s.zones := rfl
@[simp] theorem setLine_dueQueue (s : State) (l : LineId) (r : Line) : (s.setLine l r).dueQueue = s.dueQueue := rfl
@[simp] theorem setLine_current (s : State) (l : LineId) (r : Line) : (s.setLine l r).current = s.current := rfl
@[simp] theorem setLine_slots (s : State) (l : LineId) (r : Line) : (s.setLine l r).slots = s.slots := rfl
@[simp] theorem setLine_notices (s : State) (l : LineId) (r : Line) : (s.setLine l r).notices = s.notices := rfl
@[simp] theorem setLine_alertA (s : State) (l : LineId) (r : Line) : (s.setLine l r).alertA = s.alertA := rfl
@[simp] theorem setLine_alertB (s : State) (l : LineId) (r : Line) : (s.setLine l r).alertB = s.alertB := rfl
@[simp] theorem setLine_freeCount (s : State) (l : LineId) (r : Line) : (s.setLine l r).freeCount = s.freeCount := rfl
@[simp] theorem setLine_pending (s : State) (l : LineId) (r : Line) : (s.setLine l r).pending = s.pending := rfl
@[simp] theorem setLine_slot (s : State) (l : LineId) (r : Line) (i : SlotId) : (s.setLine l r).slot i = s.slot i := rfl
@[simp] theorem setLine_zone (s : State) (l : LineId) (r : Line) (z : ZoneId) : (s.setLine l r).zone z = s.zone z := rfl

/-! ### Updates of a single other field -/

@[simp] theorem slot_withLink (s : State) (k : Link) (i : SlotId) : { s with link := k }.slot i = s.slot i := rfl
@[simp] theorem zone_withLink (s : State) (k : Link) (z : ZoneId) : { s with link := k }.zone z = s.zone z := rfl
@[simp] theorem line_withLink (s : State) (k : Link) (l : LineId) : { s with link := k }.line l = s.line l := rfl

end Sys2Proof.Machine
end

