-- ==== Sys2Proof/Laws/Frames.lean ====
section
/-! SUPPORT. What each shared operation can change: one frame lemma per operation, stated as a relation between the state before and the state after. -/

namespace Sys2Proof.Machine

/-! ### The relations -/

/-- `t` differs from `s` at most in the notice queue and the two alert lines. -/
def NoticesOnly (s t : State) : Prop :=
  { s with notices := t.notices, alertA := t.alertA, alertB := t.alertB } = t

/-- `t` differs from `s` at most in the slots, the notice queue, the alert lines and the count of free values. -/
def ProbesOnly (s t : State) : Prop :=
  { s with slots := t.slots, notices := t.notices, alertA := t.alertA, alertB := t.alertB, freeCount := t.freeCount } = t

/-- `t` differs from `s` at most in what `ProbesOnly` names, the zones, the due queue, the evaluation and the banks. -/
def CycleOnly (s t : State) : Prop :=
  { s with
    slots := t.slots, notices := t.notices, alertA := t.alertA, alertB := t.alertB, freeCount := t.freeCount
    zones := t.zones, dueQueue := t.dueQueue, current := t.current, tables := t.tables } = t

/-- `t` differs from `s` at most in the link. -/
def LinkOnly (s t : State) : Prop := { s with link := t.link } = t

theorem NoticesOnly.refl (s : State) : NoticesOnly s s := rfl
theorem ProbesOnly.refl (s : State) : ProbesOnly s s := rfl
theorem CycleOnly.refl (s : State) : CycleOnly s s := rfl
theorem LinkOnly.refl (s : State) : LinkOnly s s := rfl

theorem NoticesOnly.trans {s t u : State} (h : NoticesOnly s t) (k : NoticesOnly t u) : NoticesOnly s u := by
  unfold NoticesOnly at *; rw [← h] at k; exact k

theorem ProbesOnly.trans {s t u : State} (h : ProbesOnly s t) (k : ProbesOnly t u) : ProbesOnly s u := by
  unfold ProbesOnly at *; rw [← h] at k; exact k

theorem CycleOnly.trans {s t u : State} (h : CycleOnly s t) (k : CycleOnly t u) : CycleOnly s u := by
  unfold CycleOnly at *; rw [← h] at k; exact k

theorem LinkOnly.trans {s t u : State} (h : LinkOnly s t) (k : LinkOnly t u) : LinkOnly s u := by
  unfold LinkOnly at *; rw [← h] at k; exact k

theorem NoticesOnly.probes {s t : State} (h : NoticesOnly s t) : ProbesOnly s t := by
  unfold NoticesOnly at h; rw [← h]; rfl

theorem ProbesOnly.cycle {s t : State} (h : ProbesOnly s t) : CycleOnly s t := by
  unfold ProbesOnly at h; rw [← h]; rfl

namespace NoticesOnly
variable {s t : State} (h : NoticesOnly s t)
include h
theorem timeBase : t.timeBase = s.timeBase := by rw [← h]
theorem params : t.params = s.params := by rw [← h]
theorem link : t.link = s.link := by rw [← h]
theorem tables : t.tables = s.tables := by rw [← h]
theorem zones : t.zones = s.zones := by rw [← h]
theorem dueQueue : t.dueQueue = s.dueQueue := by rw [← h]
theorem current : t.current = s.current := by rw [← h]
theorem slots : t.slots = s.slots := by rw [← h]
theorem lines : t.lines = s.lines := by rw [← h]
theorem freeCount : t.freeCount = s.freeCount := by rw [← h]
theorem pending : t.pending = s.pending := by rw [← h]
theorem slot (i : SlotId) : t.slot i = s.slot i := by rw [← h]; rfl
theorem zone (z : ZoneId) : t.zone z = s.zone z := by rw [← h]; rfl
theorem line (l : LineId) : t.line l = s.line l := by rw [← h]; rfl
end NoticesOnly

namespace ProbesOnly
variable {s t : State} (h : ProbesOnly s t)
include h
theorem timeBase : t.timeBase = s.timeBase := by rw [← h]
theorem params : t.params = s.params := by rw [← h]
theorem link : t.link = s.link := by rw [← h]
theorem tables : t.tables = s.tables := by rw [← h]
theorem zones : t.zones = s.zones := by rw [← h]
theorem dueQueue : t.dueQueue = s.dueQueue := by rw [← h]
theorem current : t.current = s.current := by rw [← h]
theorem lines : t.lines = s.lines := by rw [← h]
theorem pending : t.pending = s.pending := by rw [← h]
theorem zone (z : ZoneId) : t.zone z = s.zone z := by rw [← h]; rfl
theorem line (l : LineId) : t.line l = s.line l := by rw [← h]; rfl
end ProbesOnly

namespace CycleOnly
variable {s t : State} (h : CycleOnly s t)
include h
theorem timeBase : t.timeBase = s.timeBase := by rw [← h]
theorem params : t.params = s.params := by rw [← h]
theorem link : t.link = s.link := by rw [← h]
theorem lines : t.lines = s.lines := by rw [← h]
theorem pending : t.pending = s.pending := by rw [← h]
theorem line (l : LineId) : t.line l = s.line l := by rw [← h]; rfl
end CycleOnly

namespace LinkOnly
variable {s t : State} (h : LinkOnly s t)
include h
theorem timeBase : t.timeBase = s.timeBase := by rw [← h]
theorem params : t.params = s.params := by rw [← h]
theorem tables : t.tables = s.tables := by rw [← h]
theorem zones : t.zones = s.zones := by rw [← h]
theorem dueQueue : t.dueQueue = s.dueQueue := by rw [← h]
theorem current : t.current = s.current := by rw [← h]
theorem slots : t.slots = s.slots := by rw [← h]
theorem lines : t.lines = s.lines := by rw [← h]
theorem notices : t.notices = s.notices := by rw [← h]
theorem alertA : t.alertA = s.alertA := by rw [← h]
theorem alertB : t.alertB = s.alertB := by rw [← h]
theorem freeCount : t.freeCount = s.freeCount := by rw [← h]
theorem pending : t.pending = s.pending := by rw [← h]
theorem slot (i : SlotId) : t.slot i = s.slot i := by rw [← h]; rfl
theorem zone (z : ZoneId) : t.zone z = s.zone z := by rw [← h]; rfl
theorem line (l : LineId) : t.line l = s.line l := by rw [← h]; rfl
end LinkOnly

/-! ### Notices and alert lines -/

theorem onset_noticesOnly (src : AlertSource) (s : State) : NoticesOnly s (onset src s) := rfl

theorem arrive_noticesOnly (n : Notice) (s : State) : NoticesOnly s (arrive n s) := by
  unfold arrive
  dsimp only
  split
  · split <;> rfl
  · split <;> rfl

theorem emit_noticesOnly (b : NoticeBody) (s : State) : NoticesOnly s (emit b s) := arrive_noticesOnly _ s

theorem zoneOnsets_noticesOnly (a b : ZoneState) (s : State) : NoticesOnly s (zoneOnsets a b s) := by
  simp only [zoneOnsets, List.foldl]
  repeat' split
  all_goals rfl

/-! ### Slots -/

theorem setSlot_probesOnly (i : SlotId) (r : Option Slot) (s : State) : ProbesOnly s (s.setSlot i r) := rfl

theorem foldl_probesOnly {act : SlotId → State → State} (h : ∀ i s, ProbesOnly s (act i s)) (l : List SlotId) (s : State) :
    ProbesOnly s (l.foldl (fun s i => act i s) s) := by
  induction l generalizing s with
  | nil => exact .refl s
  | cons i l ih => exact (h i s).trans (ih (act i s))

theorem inFreeOrder_probesOnly {act : SlotId → State → State} (h : ∀ i s, ProbesOnly s (act i s)) (l : List SlotId)
    (s : State) : ProbesOnly s (inFreeOrder act l s) := by
  unfold inFreeOrder
  split
  · exact foldl_probesOnly h l s
  · exact ProbesOnly.trans (t := countFree s) rfl (foldl_probesOnly h _ _)

theorem advance_probesOnly (i : SlotId) (s : State) : ProbesOnly s (advance i s) := by
  unfold advance; repeat' split
  all_goals rfl

theorem tryArm_probesOnly (i : SlotId) (r : Slot) (s : State) : ProbesOnly s (tryArm i r s) := by
  unfold tryArm
  repeat' split
  · rfl
  · rfl
  · exact (setSlot_probesOnly i _ s).trans (emit_noticesOnly _ _).probes

theorem heaterSees_probesOnly (i : SlotId) (h : Nat) (s : State) : ProbesOnly s (heaterSees i h s) := by
  unfold heaterSees
  repeat' split
  · rfl
  · exact (setSlot_probesOnly i _ s).trans (tryArm_probesOnly _ _ _)
  · rfl
  · rfl

theorem takeMiss_probesOnly (i : SlotId) (o : ProbeOutcome) (s : State) : ProbesOnly s (takeMiss i o s) := by
  unfold takeMiss
  repeat' split
  · rfl
  · exact (setSlot_probesOnly i _ s).trans ((emit_noticesOnly _ _).trans (onset_noticesOnly _ _)).probes
  · rfl

theorem noteChange_noticesOnly (i : SlotId) (old new : ProbeState) (s : State) :
    NoticesOnly s (noteChange i old new s) := by
  unfold noteChange
  split
  · rfl
  · exact emit_noticesOnly _ _

theorem acceptReading_probesOnly (i : SlotId) (r : Slot) (rd : Reading) (s : State) :
    ProbesOnly s (acceptReading i r rd s) := by
  have h1 := (setSlot_probesOnly i (some (r.withReading rd)) s).trans
    (noteChange_noticesOnly i r.state (r.withReading rd).state _).probes
  unfold acceptReading
  dsimp only
  repeat' split
  · exact h1.trans (heaterSees_probesOnly _ _ _)
  · exact h1
  · exact h1

theorem takeGoodRead_probesOnly (i : SlotId) (t : Nat) (h : Option Nat) (s : State) :
    ProbesOnly s (takeGoodRead i t h s) := by
  unfold takeGoodRead
  dsimp only
  repeat' split
  · rfl
  · exact acceptReading_probesOnly _ _ _ _
  · exact takeMiss_probesOnly _ _ _

theorem takeGoodHeat_probesOnly (i : SlotId) (s : State) : ProbesOnly s (takeGoodHeat i s) := by
  unfold takeGoodHeat
  repeat' split
  · rfl
  · rfl
  · exact (setSlot_probesOnly i _ s).trans (emit_noticesOnly _ _).probes

theorem takeReport_probesOnly (i : SlotId) (rep : Report) (s : State) : ProbesOnly s (takeReport i rep s) := by
  cases rep
  · exact takeGoodRead_probesOnly _ _ _ _
  · exact takeGoodHeat_probesOnly _ _
  · exact takeMiss_probesOnly _ _ _

theorem writeLastPoll_probesOnly (i : SlotId) (t : Time) (s : State) : ProbesOnly s (writeLastPoll i t s) := by
  unfold writeLastPoll; split <;> rfl

theorem handOutcome_probesOnly (i : SlotId) (t : Time) (rep : Report) (s : State) :
    ProbesOnly s (handOutcome i t rep s) :=
  ((writeLastPoll_probesOnly _ _ _).trans (takeReport_probesOnly _ _ _)).trans (advance_probesOnly _ _)

theorem faultMiss_probesOnly (i : SlotId) (s : State) : ProbesOnly s (faultMiss i s) := handOutcome_probesOnly _ _ _ _

theorem missIfFaulted_probesOnly (i : SlotId) (s : State) : ProbesOnly s (missIfFaulted i s) := by
  unfold missIfFaulted
  repeat' split
  · exact faultMiss_probesOnly _ _
  · rfl
  · rfl

theorem recompute_probesOnly (i : SlotId) (s : State) : ProbesOnly s (recompute i s) := by
  unfold recompute
  repeat' split
  · rfl
  · exact (setSlot_probesOnly i _ s).trans (missIfFaulted_probesOnly _ _)
  · exact (advance_probesOnly i s).trans (missIfFaulted_probesOnly _ _)
  · rfl
  · rfl

theorem recomputeMembers_probesOnly (ms : List SlotId) (s : State) : ProbesOnly s (recomputeMembers ms s) :=
  (foldl_probesOnly recompute_probesOnly _ s).trans (inFreeOrder_probesOnly recompute_probesOnly _ _)

theorem endHeat_probesOnly (i : SlotId) (r : Slot) (s : State) : ProbesOnly s (endHeat i r s) :=
  ((setSlot_probesOnly i _ s).trans (emit_noticesOnly _ _).probes).trans (missIfFaulted_probesOnly _ _)

/-! ### Banks, zones and evaluations -/

theorem swapPending_cycleOnly (s : State) : CycleOnly s (swapPending s) := by
  unfold swapPending
  split
  · rfl
  · refine CycleOnly.trans ?_ (emit_noticesOnly _ _).probes.cycle
    rfl

theorem takeHead_cycleOnly (s : State) : CycleOnly s (takeHead s) := by
  unfold takeHead; repeat' split
  all_goals rfl

theorem joinDueQueue_cycleOnly (z : ZoneId) (s : State) : CycleOnly s (joinDueQueue z s) :=
  CycleOnly.trans (t := enqueue z s) rfl (takeHead_cycleOnly _)

theorem completeZone_cycleOnly (z : ZoneId) (r : Zone) (c : Current) (s : State) :
    CycleOnly s (completeZone z r c s) := by
  have h1 : CycleOnly s (s.setZone z (some (zoneAfter s c r))) := rfl
  unfold completeZone
  dsimp only
  refine CycleOnly.trans ?_ (zoneOnsets_noticesOnly _ _ _).probes.cycle
  repeat' split
  · exact h1.trans (recomputeMembers_probesOnly _ _).cycle
  · exact (h1.trans (emit_noticesOnly _ _).probes.cycle).trans (recomputeMembers_probesOnly _ _).cycle
  · exact h1
  · exact h1.trans (emit_noticesOnly _ _).probes.cycle

theorem completeFor_cycleOnly (c : Current) (s : State) : CycleOnly s (completeFor c s) := by
  unfold completeFor
  repeat' split
  · exact completeZone_cycleOnly _ _ _ _
  · rfl
  · rfl

theorem completeEvaluation_cycleOnly (c : Current) (s : State) : CycleOnly s (completeEvaluation c s) := by
  refine CycleOnly.trans ?_ (takeHead_cycleOnly _)
  refine CycleOnly.trans ?_ (swapPending_cycleOnly _)
  exact (completeFor_cycleOnly c s).trans (t := completeFor c s) rfl

theorem makePending_cycleOnly (k : BankId) (s : State) : CycleOnly s (makePending k s) := by
  unfold makePending
  dsimp only
  split
  · refine CycleOnly.trans ?_ (swapPending_cycleOnly _)
    rfl
  · rfl

theorem defineZone_cycleOnly (z : ZoneId) (d : ZoneDef) (s : State) : CycleOnly s (defineZone z d s) := by
  unfold defineZone
  dsimp only
  split
  · split
    · refine CycleOnly.trans ?_ (joinDueQueue_cycleOnly _ _)
      refine CycleOnly.trans ?_ (recomputeMembers_probesOnly _ _).cycle
      rfl
    · refine CycleOnly.trans ?_ (recomputeMembers_probesOnly _ _).cycle
      refine CycleOnly.trans ?_ (joinDueQueue_cycleOnly _ _)
      rfl
  · refine CycleOnly.trans ?_ (recomputeMembers_probesOnly _ _).cycle
    refine CycleOnly.trans ?_ (joinDueQueue_cycleOnly _ _)
    rfl

theorem closeZone_cycleOnly (z : ZoneId) (r : Zone) (s : State) : CycleOnly s (closeZone z r s) :=
  CycleOnly.trans (t := leaveCycle z (s.setZone z none)) rfl
    (recomputeMembers_probesOnly _ _).cycle

/-! ### Lines -/

/-- `t` differs from `s` at most in what `ProbesOnly` names and the lines. -/
def LinesOnly (s t : State) : Prop :=
  { s with
    slots := t.slots, notices := t.notices, alertA := t.alertA, alertB := t.alertB, freeCount := t.freeCount
    lines := t.lines } = t

theorem LinesOnly.refl (s : State) : LinesOnly s s := rfl

theorem LinesOnly.trans {s t u : State} (h : LinesOnly s t) (k : LinesOnly t u) : LinesOnly s u := by
  unfold LinesOnly at *; rw [← h] at k; exact k

theorem ProbesOnly.linesOnly {s t : State} (h : ProbesOnly s t) : LinesOnly s t := by
  unfold ProbesOnly at h; rw [← h]; rfl

theorem setLine_linesOnly (l : LineId) (r : Line) (s : State) : LinesOnly s (s.setLine l r) := rfl

namespace LinesOnly
variable {s t : State} (h : LinesOnly s t)
include h
theorem timeBase : t.timeBase = s.timeBase := by rw [← h]
theorem params : t.params = s.params := by rw [← h]
theorem link : t.link = s.link := by rw [← h]
theorem tables : t.tables = s.tables := by rw [← h]
theorem zones : t.zones = s.zones := by rw [← h]
theorem dueQueue : t.dueQueue = s.dueQueue := by rw [← h]
theorem current : t.current = s.current := by rw [← h]
theorem pending : t.pending = s.pending := by rw [← h]
theorem zone (z : ZoneId) : t.zone z = s.zone z := by rw [← h]; rfl
end LinesOnly

theorem complete_linesOnly (l : LineId) (ln : Line) (t : Txn) (p : Phase) (rep : Report) (s : State) :
    LinesOnly s (complete l ln t p rep s) := by
  unfold complete
  dsimp only
  split
  · rfl
  · exact (setLine_linesOnly _ _ _).trans (handOutcome_probesOnly _ _ _ _).linesOnly

theorem receiveCharacter_linesOnly (l : LineId) (ln : Line) (t : Txn) (b : BitVec 9) (s : State) :
    LinesOnly s (receiveCharacter l ln t b s) := by
  unfold receiveCharacter
  split
  · rfl
  · exact complete_linesOnly _ _ _ _ _ _
  · exact complete_linesOnly _ _ _ _ _ _

theorem cutTransaction_probesOnly (st : LineState) (s : State) : ProbesOnly s (cutTransaction st s) := by
  unfold cutTransaction
  repeat' split
  · exact handOutcome_probesOnly _ _ _ _
  all_goals rfl

theorem enterFault_linesOnly (l : LineId) (ln : Line) (s : State) : LinesOnly s (enterFault l ln s) := by
  unfold enterFault
  dsimp only
  refine LinesOnly.trans ?_ (inFreeOrder_probesOnly faultMiss_probesOnly _ _).linesOnly
  refine LinesOnly.trans ?_ (cutTransaction_probesOnly _ _).linesOnly
  exact LinesOnly.trans (setLine_linesOnly _ _ _) ((emit_noticesOnly _ _).trans (onset_noticesOnly _ _)).probes.linesOnly

end Sys2Proof.Machine
end

