-- ==== Sys2Proof/Laws/Commute.lean ====
section
/-! SUPPORT. The operations on zones, probes and notices are apart from the link: each gives the same state whether the link is changed before it or after. -/

namespace Sys2Proof.Machine

/-! ### Notices and outcomes -/

theorem emit_setLink (b) (s : State) (k : Link) :
    emit b { s with link := k } = { emit b s with link := k } := by
  unfold emit arrive; dsimp only; split
  · split <;> rfl
  · split <;> rfl
theorem setSlot_setLink (i r) (s : State) (k : Link) :
    State.setSlot i r { s with link := k } = { State.setSlot i r s with link := k } := rfl
theorem onset_setLink (src) (s : State) (k : Link) :
    onset src { s with link := k } = { onset src s with link := k } := rfl

theorem advance_setLink (i) (s : State) (k : Link) :
    advance i { s with link := k } = { advance i s with link := k } := by
  unfold advance
  show (match s.slot i with | some r => _ | none => _) = _
  cases s.slot i with
  | none => rfl
  | some r => dsimp only; split <;> rfl
theorem takeMiss_setLink (i o) (s : State) (k : Link) :
    takeMiss i o { s with link := k } = { takeMiss i o s with link := k } := by
  unfold takeMiss
  show (match s.slot i with | none => _ | some r => _) = _
  cases s.slot i with
  | none => rfl
  | some r =>
    dsimp only; split
    · rw [setSlot_setLink, emit_setLink, onset_setLink]
    · rfl
theorem writeLastPoll_setLink (i o) (s : State) (k : Link) :
    writeLastPoll i o { s with link := k } = { writeLastPoll i o s with link := k } := by
  unfold writeLastPoll
  show (match s.slot i with | some r => _ | none => _) = _
  cases s.slot i <;> rfl
theorem handMiss_setLink (i lp o) (s : State) (k : Link) :
    handOutcome i lp (.miss o) { s with link := k } = { handOutcome i lp (.miss o) s with link := k } := by
  unfold handOutcome
  rw [writeLastPoll_setLink]
  show advance i (takeMiss i o _) = _
  rw [takeMiss_setLink, advance_setLink]; rfl
theorem missIfFaulted_setLink (i) (s : State) (k : Link) :
    missIfFaulted i { s with link := k } = { missIfFaulted i s with link := k } := by
  unfold missIfFaulted
  show (match s.slot i with | some r => _ | none => _) = _
  cases s.slot i with
  | none => rfl
  | some r =>
    dsimp only
    show (if r.schedulable && r.due && onFaultLine s i then faultMiss i { s with link := k } else _) = _
    split
    · exact handMiss_setLink i s.timeBase .lineFault s k
    · rfl

/-! ### Zones, recomputation and the due queue -/

/-- `f` neither reads nor writes the link: giving the state another link before `f` is the same as giving it after. -/
def LinkApart (f : State → State) : Prop := ∀ s (k : Link), f { s with link := k } = { f s with link := k }

theorem LinkApart.comp {f g : State → State} (hf : LinkApart f) (hg : LinkApart g) :
    LinkApart (fun s => f (g s)) := fun s k => by dsimp only; rw [hg, hf]

theorem linkApart_foldl {act : SlotId → State → State} (h : ∀ i, LinkApart (act i)) (l : List SlotId) : LinkApart (fun s => l.foldl (fun s i => act i s) s) := by
  induction l with
  | nil => intro s k; rfl
  | cons i l ih => intro s k; simp only [List.foldl_cons]; rw [h i s k]; exact ih (act i s) k

theorem linkApart_countFree : LinkApart countFree := fun _ _ => rfl
theorem linkApart_inFreeOrder {act : SlotId → State → State} (h : ∀ i, LinkApart (act i)) (l : List SlotId) : LinkApart (inFreeOrder act l) := by
  intro s k
  unfold inFreeOrder
  split
  · exact linkApart_foldl h l s k
  · rw [linkApart_countFree s k]; exact linkApart_foldl h (freeOrder s.freeCount l) (countFree s) k

theorem linkApart_recompute (i) : LinkApart (recompute i) := by
  intro s k
  unfold recompute
  show (match s.slot i with | none => _ | some r => _) = _
  cases s.slot i with
  | none => rfl
  | some r =>
    dsimp only
    split
    · show (if r.pace = .settled ∧ paceOf s i r = .fast then _ else _) = _
      split
      · rw [setSlot_setLink, missIfFaulted_setLink]
      · show (if advancesAgain s i r = true then _ else _) = _
        split
        · rw [advance_setLink, missIfFaulted_setLink]
        · rfl
    · rfl

theorem linkApart_recomputeMembers (ms) : LinkApart (recomputeMembers ms) := by
  intro s k
  unfold recomputeMembers
  have : ∀ m, onFaultLine { s with link := k } m = onFaultLine s m := fun _ => rfl
  simp only [this]
  have h1 := linkApart_foldl linkApart_recompute (ms.filter fun m => !onFaultLine s m) s k
  dsimp only at h1
  rw [h1]
  exact linkApart_inFreeOrder linkApart_recompute _ _ k

theorem takeHead_busy {s : State} {c} (h : s.current = some c) : takeHead s = s := by
  unfold takeHead; rw [h]
theorem takeHead_empty {s : State} (h : s.dueQueue = []) : takeHead s = s := by
  unfold takeHead; rw [h]; split <;> simp_all
theorem takeHead_take {s : State} {z rest r} (hc : s.current = none) (h : s.dueQueue = z :: rest) (hz : s.zone z = some r) :
    takeHead s = { s.setZone z (some { r with dueMark := false }) with dueQueue := rest, current := some (evaluationOf s z r.defn) } := by
  unfold takeHead; rw [hc, h]; dsimp only; rw [hz]
theorem takeHead_drop {s : State} {z rest} (hc : s.current = none) (h : s.dueQueue = z :: rest) (hz : s.zone z = none) :
  takeHead s = { s with dueQueue := rest } := by
  unfold takeHead; rw [hc, h]; dsimp only; rw [hz]
theorem dueQueue_cases (l : List ZoneId) : l = [] ∨ ∃ z rest, l = z :: rest := by cases l <;> simp
theorem linkApart_takeHead : LinkApart takeHead := by
  intro s k
  rcases Option.eq_none_or_eq_some s.current with hc | ⟨c, hc⟩
  · rcases dueQueue_cases s.dueQueue with hq | ⟨z, rest, hq⟩
    · rw [takeHead_empty hq]; exact takeHead_empty (s := { s with link := k }) hq
    · rcases Option.eq_none_or_eq_some (s.zone z) with hz | ⟨r, hz⟩
      · rw [takeHead_drop hc hq hz]; exact takeHead_drop (s := { s with link := k }) hc hq hz
      · rw [takeHead_take hc hq hz]; exact takeHead_take (s := { s with link := k }) hc hq hz
  · rw [takeHead_busy hc]; exact takeHead_busy (s := { s with link := k }) hc
theorem linkApart_joinDueQueue (z) : LinkApart (joinDueQueue z) := fun s k => linkApart_takeHead (enqueue z s) k
theorem linkApart_setZone (z r) : LinkApart (State.setZone z r) := fun _ _ => rfl

theorem linkApart_defineZone (z d) : LinkApart (defineZone z d) := by
  intro s k
  unfold defineZone
  dsimp only
  rw [linkApart_setZone]
  have e1 : ∀ m, onFaultLine { s with link := k } m = onFaultLine s m := fun _ => rfl
  simp only [e1]
  by_cases h1 : (d.members.any fun m => onFaultLine s m) = true
  · by_cases h2 : Config.freeRecomputeFirst s.freeCount = true
    · simp only [if_pos h1, if_pos h2]; rw [linkApart_countFree, linkApart_recomputeMembers, linkApart_joinDueQueue]
    · simp only [if_pos h1, if_neg h2]; rw [linkApart_countFree, linkApart_joinDueQueue, linkApart_recomputeMembers]
  · simp only [if_neg h1]; rw [linkApart_joinDueQueue, linkApart_recomputeMembers]

theorem linkApart_closeZone (z r) : LinkApart (closeZone z r) := by
  intro s k
  unfold closeZone
  exact linkApart_recomputeMembers _ (leaveCycle z (s.setZone z none)) k

end Sys2Proof.Machine
end

