-- ==== Sys2Proof/Laws/Effects.lean ====
section
/-! SUPPORT. What a command can do, said once: every meaning is a chain of the effects below, so a law that each effect keeps is kept by every command. -/

namespace Sys2Proof.Machine

/-- The effects of the block's events, each with what is known where it happens. -/
inductive Effect : State → State → Prop
  /-- The link controller's record changes. -/
  | link (k : Link) (s : State) : Effect s { s with link := k }
  /-- A frame is built that carries `n` notices (R159). -/
  | carry (n : Nat) (s : State) (h : n ≤ s.notices.queue.length) :
      Effect s { s with notices := { s.notices with carried := n } }
  /-- The notices of a transmitted frame leave the queue (R159). -/
  | sent (s : State) :
      Effect s { s with notices := { s.notices with queue := s.notices.queue.drop s.notices.carried, carried := 0 } }
  /-- A fetch's result reports the overflow mark (R160). -/
  | overflowRead (s : State) : Effect s { s with notices := { s.notices with overflow := false } }
  /-- PARAM-SET (R178). -/
  | params (q : Param) (v : Nat) (p : Params) (s : State) (h : s.params.write q v = some p) :
      Effect s { s with params := p }
  /-- ROUTE-SET and CLEAR-ALERT (R165, R166). -/
  | alerts (a b : AlertLine) (s : State) : Effect s { s with alertA := a, alertB := b }
  /-- LINE-SETUP (R126). -/
  | setup (l : LineId) (r : Rate) (o : BitOrder) (ms fault : Nat) (s : State) (h : (s.line l).state = .off)
      (hms : 5 ≤ ms ∧ ms ≤ 250) (hf : 10 ≤ fault ∧ fault ≤ 1000) :
      Effect s (s.setLine l ((s.line l).withSetup r o ms fault))
  /-- LINE-STOP (R127). -/
  | stop (l : LineId) (s : State) : Effect s (s.setLine l (s.line l).stopped)
  /-- PROBE-ENROL (R76, R77). -/
  | enrol (i : SlotId) (line address kind cls rule : Byte) (tOff rhOff : Int) (r : Slot) (s : State)
      (hp : parseEnrolment s.timeBase line address kind cls rule tOff rhOff = some r) (hv : s.slot i = none)
      (hd : slotAt s r.line r.address = none) : Effect s (missIfFaulted i (s.setSlot i (some r)))
  /-- PROBE-WITHDRAW (R78, R79). -/
  | withdraw (i : SlotId) (r : Slot) (s : State) (h : s.slot i = some r) (hz : zonesNaming s i = []) :
      Effect s ((s.setLine r.line ((s.line r.line).orphaning i)).setSlot i none)
  /-- PROBE-HOLD (R80). -/
  | hold (i : SlotId) (r : Slot) (s : State) (h : s.slot i = some r) (hh : r.state ≠ .heating) (hd : r.state ≠ .held) :
      Effect s (s.setSlot i (some { r.clearHeater with state := .held }))
  /-- PROBE-RELEASE (R82). -/
  | release (i : SlotId) (r : Slot) (s : State) (h : s.slot i = some r) (hd : r.state = .held) :
      Effect s (missIfFaulted i (s.setSlot i (some { r.madePending s.timeBase with misses := 0 })))
  /-- HEAT-PROBE (R119). -/
  | force (i : SlotId) (r : Slot) (s : State) (h : s.slot i = some r) (hk : r.kind ≠ .surface)
      (hs : ¬(r.state = .heating ∨ r.state = .held)) : Effect s (s.setSlot i (some { r with armed := some .forced }))
  /-- ZONE-DEFINE (R7 to R10). -/
  | define (z : ZoneId) (watch alert hyst nin nout : Nat) (rest : List Byte) (d : ZoneDef) (s : State) (hh : hyst ≤ 255)
      (hp : parseDefinition watch alert hyst nin nout rest = some d) (hz : s.zone z = none)
      (hm : memberFailure s d = none) : Effect s (defineZone z d s)
  /-- ZONE-CLOSE (R11, R12). -/
  | close (z : ZoneId) (r : Zone) (s : State) (h : s.zone z = some r) : Effect s (closeZone z r s)
  /-- TABLE-BEGIN (R54). -/
  | begin (k : BankId) (b : Bank) (n : Nat) (s : State) (hb : s.tables.loadable k = some b) (hn : 2 ≤ n ∧ n ≤ 64)
      (hs : ¬(b.state = .active ∨ b.state = .pending)) : Effect s { s with tables := s.tables.begin k n }
  /-- An element is taken (R56, R57). -/
  | element (lo hi : Byte) (s : State) : Effect s { s with tables := s.tables.writeElement lo hi }
  /-- TABLE-COMMIT that passes its checks (R60 to R62). -/
  | commit (k : BankId) (b : Bank) (c : BankContents) (s : State) (hb : s.tables.loadable k = some b)
      (hs : b.state = .loaded) (hc : b.contents = some c) (hp : s.tables.pendingBank = none)
      (ho : orderFailure c.entries = none) : Effect s (makePending k s)
  /-- TABLE-SELECT of a STANDBY bank (R63). -/
  | select (k : BankId) (s : State) (hs : s.tables.stateOf k = .standby) (hp : s.tables.pendingBank = none) :
      Effect s (makePending k s)
  /-- A hardware reset (R181). -/
  | reset (r : LinkRate) (s : State) : Effect s (resetAll .reset r s)
  /-- RESTART takes effect (R181). -/
  | restart (s : State) : Effect s (restartEffect s)
  /-- A tick (R181). -/
  | tick (s : State) : Effect s { s with timeBase := s.timeBase + 1 }
  /-- A zone's timer expires (R20). -/
  | expiry (z : ZoneId) (r : Zone) (t : Time) (s : State) (h : s.zone z = some r) (ht : r.expiry = some t) :
      Effect s (joinDueQueue z (s.setZone z (some { r with expiry := none, dueMark := true })))
  /-- An evaluation completes (R40, R41). -/
  | completion (c : Current) (s : State) (h : s.current = some c) : Effect s (completeEvaluation c s)
  /-- A slot falls due (R143, R138). -/
  | due (i : SlotId) (r : Slot) (s : State) (h : s.slot i = some r) :
      Effect s (missIfFaulted i (s.setSlot i (some { r with due := true })))
  /-- A heat cycle ends (R89). -/
  | heatEnd (i : SlotId) (r : Slot) (s : State) (h : s.slot i = some r) (hs : r.state = .heating) :
      Effect s (endHeat i r s)
  /-- A poll begins (R128, R145). -/
  | pollStart (l : LineId) (i : SlotId) (r : Slot) (s : State) (h : (s.line l).state = .idle)
      (ha : (s.line l).activeLevel = false) (hc : chosenSlot s l = some i) (hr : s.slot i = some r) :
      Effect s (s.setLine l { s.line l with state := .busy (startTxn s i r), lastServed := some i, driveEnable := true })
  /-- A poll has been sent (R128). -/
  | pollSent (l : LineId) (t : Txn) (s : State) (h : (s.line l).state = .busy t) (hp : t.phase = .sending) :
      Effect s (s.setLine l { s.line l with
        state := .busy { t with phase := .awaiting }, driveEnable := false, activeStretch := (s.line l).activeLevel })
  /-- A line goes to the active level (R136). -/
  | leave (l : LineId) (s : State) (h : (s.line l).activeLevel = false) : Effect s (s.setLine l (s.line l).leaving)
  /-- A line returns to the idle level (R136). -/
  | return (l : LineId) (s : State) (h : (s.line l).activeLevel = true) (hf : (s.line l).state ≠ .fault) :
      Effect s (s.setLine l (s.line l).atIdle)
  /-- A faulted line returns to the idle level (R139). -/
  | rest (l : LineId) (s : State) (h : (s.line l).activeLevel = true) (hf : (s.line l).state = .fault) :
      Effect s (s.setLine l { (s.line l).atIdle with restStretch := true })
  /-- A transaction completes early, or without a reply (R129 to R131). -/
  | early (l : LineId) (ln : Line) (t : Txn) (p : Phase) (o : ProbeOutcome) (s : State)
      (hl : ln = s.line l ∨ ln = (s.line l).atIdle) (h : (s.line l).state = .busy t)
      (ht : t.phase = .awaiting ∨ t.phase = .receiving) (hp : p = .discarding ∨ p = .turnaround) (ho : o ≠ .none ∧ o ≠ .good) :
      Effect s (complete l ln t p (.miss o) s)
  /-- A reply character passes its tests (R130). -/
  | character (l : LineId) (t : Txn) (b : BitVec 9) (s : State) (h : (s.line l).state = .busy t)
      (ht : t.receiving = true) (hj : judgeCharacter t (markOf (s.line l).order b) (valueOf (s.line l).order b) = .goesOn) :
      Effect s (s.setLine l { (s.line l).atIdle with
        state := .busy { t with received := t.received ++ [valueOf (s.line l).order b] } })
  /-- A reply is whole (R132). -/
  | whole (l : LineId) (t : Txn) (b : BitVec 9) (rep : Report) (s : State) (h : (s.line l).state = .busy t)
      (ht : t.receiving = true)
      (hj : judgeCharacter t (markOf (s.line l).order b) (valueOf (s.line l).order b) = .whole rep) :
      Effect s (complete l (s.line l).atIdle t .turnaround rep s)
  /-- A reply character has a framing error (R131). -/
  | framing (l : LineId) (t : Txn) (s : State) (h : (s.line l).state = .busy t) (ht : t.receiving = true) :
      Effect s (s.setLine l { s.line l with
        activeLevel := true, activeStretch := true, state := .busy { t with framingWait := true } })
  /-- The discard phase ends (R130). -/
  | discarded (l : LineId) (t : Txn) (s : State) (h : (s.line l).state = .busy t) (ht : t.phase = .discarding) :
      Effect s (s.setLine l { s.line l with state := .busy { t with phase := .turnaround } })
  /-- The turnaround ends (R133). -/
  | turned (l : LineId) (t : Txn) (s : State) (h : (s.line l).state = .busy t) (ht : t.phase = .turnaround) :
      Effect s (s.setLine l { s.line l with state := .idle })
  /-- A line enters FAULT (R137). -/
  | fault (l : LineId) (s : State) (h : (s.line l).state = .idle ∨ ∃ t, (s.line l).state = .busy t)
      (ha : (s.line l).activeStretch = true) : Effect s (enterFault l (s.line l) s)
  /-- A line recovers (R139). -/
  | recovery (l : LineId) (s : State) (h : (s.line l).state = .fault) (hr : (s.line l).restStretch = true) :
      Effect s (emit (.lineState l .fault .idle) (s.setLine l { s.line l with state := .idle, restStretch := false }))

/-- A chain of effects. -/
inductive Effects : State → State → Prop
  | refl (s : State) : Effects s s
  | step {s t u : State} (h : Effects s t) (e : Effect t u) : Effects s u

theorem Effects.one {s t : State} (e : Effect s t) : Effects s t := .step (.refl s) e

theorem Effects.trans {s t u : State} (h : Effects s t) (k : Effects t u) : Effects s u := by
  induction k with
  | refl => exact h
  | step _ e ih => exact .step ih e

/-- A law that every effect keeps is kept by every chain of effects. -/
theorem Effects.keep {P : State → Prop} (hP : ∀ s t, Effect s t → P s → P t) {s t : State} (h : Effects s t) :
    P s → P t := by
  induction h with
  | refl => exact id
  | step _ e ih => exact fun p => hP _ _ e (ih p)

theorem Effects.ofLinkOnly {s t : State} (h : LinkOnly s t) : Effects s t := by
  unfold LinkOnly at h; rw [← h]; exact .one (.link _ _)

/-! ### The link controller -/

theorem sendResult_linkOnly (o : Outcome) (r : Reason) (f : List Byte) (s : State) : LinkOnly s (sendResult o r f s) := by
  unfold sendResult; split <;> rfl

theorem refuse_linkOnly (r : Reason) (s : State) (f : List Byte) : LinkOnly s (refuse r s f) := sendResult_linkOnly _ _ _ _

theorem okResult_linkOnly (s : State) (f : List Byte) : LinkOnly s (okResult s f) := sendResult_linkOnly _ _ _ _

theorem frameDamaged_linkOnly (s : State) : LinkOnly s (frameDamaged s) := by
  unfold frameDamaged
  split
  · exact sendResult_linkOnly _ _ _ _
  all_goals rfl

theorem refuse_effects (r : Reason) (s : State) (f : List Byte) : Effects s (refuse r s f) := .ofLinkOnly (refuse_linkOnly r s f)

theorem okResult_effects (s : State) (f : List Byte) : Effects s (okResult s f) := .ofLinkOnly (okResult_linkOnly s f)

/-- A change, and the result that reports it. -/
theorem okResult_after {s t : State} (f : List Byte) (h : Effects s t) : Effects s (okResult t f) :=
  h.trans (okResult_effects t f)

theorem endSending_effects (o : Outcome) (s : State) : Effects s (endSending o s) := by
  unfold endSending
  split
  · exact .ofLinkOnly (sendResult_linkOnly _ _ _ _)
  · exact (Effects.one (.overflowRead s)).trans (.ofLinkOnly (sendResult_linkOnly _ _ _ _))
  · exact .ofLinkOnly (sendResult_linkOnly _ _ _ _)

theorem fillFrame_count (room : Nat) (body : List Byte) (n : Nat) (recs : List (List Byte)) :
    (fillFrame room body n recs).count ≤ n + recs.length := by
  induction recs generalizing body n with
  | nil => simp [fillFrame]
  | cons r rest ih =>
    unfold fillFrame
    split
    · simp
    · split
      · simp
      · have := ih (body ++ r) (n + 1)
        simp only [List.length_cons]; omega

theorem buildNext_effects (s : State) : Effects s (buildNext s) := by
  unfold buildNext
  split
  · exact .refl s
  · split
    · exact .refl s
    · rename_i x _ _ src _
      dsimp only
      split
      · exact endSending_effects _ _
      · by_cases hs : src = .notices
        · subst hs
          refine .step (.one (.carry (fillFrame (x.expected - x.moved) [] 0 (remainingRecords s .notices)).count s ?_)) ?_
          · have := fillFrame_count (x.expected - x.moved) [] 0 (remainingRecords s .notices)
            simpa [remainingRecords] using this
          · simp only [if_true]
            exact .link _ { s with notices := { s.notices with carried := _ } }
        · simp only [hs, if_false]
          exact .one (.link _ s)

theorem startSending_effects (src : RecordSource) (s : State) : Effects s (startSending src s) := by
  unfold startSending
  split
  · exact .refl s
  · exact (Effects.one (.link _ s)).trans (buildNext_effects _)

theorem openExchange_effects (tag op : Byte) (e : Nat) (s : State) : Effects s (openExchange tag op e s) := .one (.link _ s)

theorem takeNone_effects (op : Op) (tag : Byte) (e : Word16) {act : State → State} (s : State)
    (h : ∀ s, Effects s (act s)) : Effects s (takeNone op tag e act s) := by
  unfold takeNone
  refine (openExchange_effects tag op.code e.toNat s).trans ?_
  dsimp only
  split
  · exact h _
  · exact refuse_effects _ _ _

theorem takeData_effects (op : Op) (tag : Byte) (e : Word16) {act : State → State} (s : State)
    (h : ∀ s, Effects s (act s)) : Effects s (takeData op tag e act s) := by
  unfold takeData
  refine (openExchange_effects tag op.code e.toNat s).trans ?_
  dsimp only
  split
  · exact h _
  · exact refuse_effects _ _ _

theorem goodRequest_effects (tag : Byte) (body : List Byte) {take : State → State} (s : State)
    (h : ∀ s, Effects s (take s)) : Effects s (goodRequest tag body take s) := by
  unfold goodRequest
  split
  · exact .one (.link _ s)
  · exact h s
  · exact (Effects.ofLinkOnly (sendResult_linkOnly .abandoned .none [] s)).trans (.one (.link _ _))
  · exact .one (.link _ s)

theorem dropPartial_effects (s : State) : Effects s (dropPartial s) := .one (.link _ s)

theorem frameDamaged_effects (s : State) : Effects s (frameDamaged s) := .ofLinkOnly (frameDamaged_linkOnly s)

theorem requestFrame_effects (tag : Byte) (body : List Byte) {take : State → State} (s : State)
    (h : ∀ s, Effects s (take s)) : Effects s (requestFrame tag body take s) := by
  unfold requestFrame
  split
  · exact (dropPartial_effects s).trans (goodRequest_effects _ _ _ h)
  · exact (dropPartial_effects s).trans (frameDamaged_effects _)

/-! ### Requests -/

theorem takeIdentify_effects (tag : Byte) (e : Word16) (p : List Byte) (s : State) : Effects s (takeIdentify tag e p s) := by
  refine takeData_effects _ _ _ _ fun s => ?_
  split
  · exact startSending_effects _ _
  · exact refuse_effects _ _ _

theorem takeReadStatus_effects (tag : Byte) (e : Word16) (p : List Byte) (s : State) :
    Effects s (takeReadStatus tag e p s) := by
  refine takeData_effects _ _ _ _ fun s => ?_
  split
  · exact startSending_effects _ _
  · exact refuse_effects _ _ _

theorem takeParamSet_effects (tag : Byte) (e : Word16) (p : List Byte) (s : State) : Effects s (takeParamSet tag e p s) := by
  refine takeNone_effects _ _ _ _ fun s => ?_
  split
  · split
    · rename_i h
      obtain ⟨q, _, hw⟩ := Option.bind_eq_some_iff.mp h
      exact okResult_after _ (.one (.params q _ _ s hw))
    · exact refuse_effects _ _ _
  · exact refuse_effects _ _ _

theorem takeParamGet_effects (tag : Byte) (e : Word16) (p : List Byte) (s : State) : Effects s (takeParamGet tag e p s) := by
  refine takeNone_effects _ _ _ _ fun s => ?_
  repeat' split
  · exact okResult_effects _ _
  all_goals exact refuse_effects _ _ _

theorem takeRestart_effects (tag : Byte) (e : Word16) (p : List Byte) (s : State) : Effects s (takeRestart tag e p s) := by
  refine takeNone_effects _ _ _ _ fun s => ?_
  split
  · exact okResult_after _ (.one (.link _ s))
  · exact refuse_effects _ _ _

theorem parseSetup_ranges {a b c d e : Byte} {r : Rate} {o : BitOrder} {ms fault : Nat}
    (h : parseSetup a b c d e = some (r, o, ms, fault)) : (5 ≤ ms ∧ ms ≤ 250) ∧ 10 ≤ fault ∧ fault ≤ 1000 := by
  unfold parseSetup at h
  split at h
  · dsimp only at h
    split at h
    · rename_i hr
      simp only [Option.some.injEq, Prod.mk.injEq] at h
      obtain ⟨_, _, rfl, rfl⟩ := h
      simpa [inRange] using hr
    · simp at h
  · simp at h

theorem takeLineSetup_effects (tag : Byte) (e : Word16) (p : List Byte) (s : State) :
    Effects s (takeLineSetup tag e p s) := by
  refine takeNone_effects _ _ _ _ fun s => ?_
  split
  · split
    · rename_i hp
      split
      · rename_i ho
        have := parseSetup_ranges hp
        exact okResult_after _ (.one (.setup _ _ _ _ _ s ho this.1 this.2))
      · exact refuse_effects _ _ _
    · exact refuse_effects _ _ _
  · exact refuse_effects _ _ _

theorem takeLineStop_effects (tag : Byte) (e : Word16) (p : List Byte) (s : State) : Effects s (takeLineStop tag e p s) := by
  refine takeNone_effects _ _ _ _ fun s => ?_
  repeat' split
  · exact okResult_effects _ _
  · exact okResult_after _ (.one (.stop _ s))
  all_goals exact refuse_effects _ _ _

theorem takeProbeEnrol_effects (tag : Byte) (e : Word16) (p : List Byte) (s : State) :
    Effects s (takeProbeEnrol tag e p s) := by
  refine takeNone_effects _ _ _ _ fun s => ?_
  split
  · split
    · rename_i hp
      split
      · exact refuse_effects _ _ _
      · rename_i hv
        split
        · exact refuse_effects _ _ _
        · rename_i hd
          exact okResult_after _ (.one (.enrol _ _ _ _ _ _ _ _ _ s hp (by simpa using hv) hd))
    · exact refuse_effects _ _ _
  · exact refuse_effects _ _ _

theorem takeProbeWithdraw_effects (tag : Byte) (e : Word16) (p : List Byte) (s : State) :
    Effects s (takeProbeWithdraw tag e p s) := by
  refine takeNone_effects _ _ _ _ fun s => ?_
  split
  · split
    · split
      · exact refuse_effects _ _ _
      · rename_i hr
        split
        · exact refuse_effects _ _ _
        · rename_i hz
          exact okResult_after _ (.one (.withdraw _ _ s hr hz))
    · exact refuse_effects _ _ _
  · exact refuse_effects _ _ _

theorem takeProbeHold_effects (tag : Byte) (e : Word16) (p : List Byte) (s : State) :
    Effects s (takeProbeHold tag e p s) := by
  refine takeNone_effects _ _ _ _ fun s => ?_
  split
  · split
    · split
      · exact refuse_effects _ _ _
      · rename_i hr
        split
        · exact refuse_effects _ _ _
        · rename_i hh
          split
          · exact okResult_effects _ _
          · rename_i hd
            exact okResult_after _ (.one (.hold _ _ s hr hh hd))
    · exact refuse_effects _ _ _
  · exact refuse_effects _ _ _

theorem takeProbeRelease_effects (tag : Byte) (e : Word16) (p : List Byte) (s : State) :
    Effects s (takeProbeRelease tag e p s) := by
  refine takeNone_effects _ _ _ _ fun s => ?_
  split
  · split
    · split
      · rename_i hr
        split
        · rename_i hd
          exact okResult_after _ (.one (.release _ _ s hr hd))
        · exact refuse_effects _ _ _
      · exact refuse_effects _ _ _
    · exact refuse_effects _ _ _
  · exact refuse_effects _ _ _

theorem takeReadProbes_effects (tag : Byte) (e : Word16) (p : List Byte) (s : State) :
    Effects s (takeReadProbes tag e p s) := by
  refine takeData_effects _ _ _ _ fun s => ?_
  repeat' split
  · exact startSending_effects _ _
  all_goals exact refuse_effects _ _ _

theorem takeHeatProbe_effects (tag : Byte) (e : Word16) (p : List Byte) (s : State) :
    Effects s (takeHeatProbe tag e p s) := by
  refine takeNone_effects _ _ _ _ fun s => ?_
  split
  · split
    · split
      · exact refuse_effects _ _ _
      · rename_i hr
        split
        · exact refuse_effects _ _ _
        · rename_i hk
          split
          · exact refuse_effects _ _ _
          · rename_i hs
            split
            · exact okResult_effects _ _
            · exact okResult_after _ (.one (.force _ _ s hr hk hs))
    · exact refuse_effects _ _ _
  · exact refuse_effects _ _ _

theorem takeZoneDefine_effects (tag : Byte) (e : Word16) (p : List Byte) (s : State) :
    Effects s (takeZoneDefine tag e p s) := by
  refine takeNone_effects _ _ _ _ fun s => ?_
  split
  · split
    · rename_i hyst _ _ _ _ _ _ _ hp
      split
      · exact refuse_effects _ _ _
      · rename_i hz
        split
        · exact refuse_effects _ _ _
        · rename_i hm
          exact okResult_after _ (.one (.define _ _ _ _ _ _ _ _ s (by omega) hp (by simpa using hz) hm))
    · exact refuse_effects _ _ _
  · exact refuse_effects _ _ _

theorem takeZoneClose_effects (tag : Byte) (e : Word16) (p : List Byte) (s : State) :
    Effects s (takeZoneClose tag e p s) := by
  refine takeNone_effects _ _ _ _ fun s => ?_
  split
  · split
    · split
      · rename_i hr
        exact okResult_after _ (.one (.close _ _ s hr))
      · exact okResult_effects _ _
    · exact refuse_effects _ _ _
  · exact refuse_effects _ _ _

theorem takeReadZones_effects (tag : Byte) (e : Word16) (p : List Byte) (s : State) :
    Effects s (takeReadZones tag e p s) := by
  refine takeData_effects _ _ _ _ fun s => ?_
  repeat' split
  · exact startSending_effects _ _
  all_goals exact refuse_effects _ _ _

theorem takeTableBegin_effects (tag : Byte) (e : Word16) (p : List Byte) (s : State) :
    Effects s (takeTableBegin tag e p s) := by
  refine takeNone_effects _ _ _ _ fun s => ?_
  split
  · split
    · rename_i hk
      split
      · rename_i hn
        split
        · exact refuse_effects _ _ _
        · rename_i hs
          obtain ⟨k', _, hb⟩ := Option.bind_eq_some_iff.mp hk
          obtain ⟨b', hb', he⟩ := Option.map_eq_some_iff.mp hb
          cases he
          exact okResult_after _ (.one (.begin _ _ _ s hb' (by simpa [inRange] using hn) hs))
      · exact refuse_effects _ _ _
    · exact refuse_effects _ _ _
  · exact refuse_effects _ _ _

theorem takeTableLoad_effects (tag : Byte) (e : Word16) (p : List Byte) (s : State) :
    Effects s (takeTableLoad tag e p s) := by
  refine takeData_effects _ _ _ _ fun s => ?_
  repeat' split
  · exact refuse_effects _ _ _
  · exact okResult_effects _ _
  · exact .one (.link _ s)
  · exact refuse_effects _ _ _

theorem loadBytes_effects (s : State) (x : Exchange) (bs : List Byte) :
    Effects s { s with tables := (loadBytes s.tables x bs).1 } := by
  induction bs generalizing s x with
  | nil => exact .refl s
  | cons b bs ih =>
    unfold loadBytes
    split
    · exact .refl s
    · split
      · exact .refl s
      · split
        · exact ih s _
        · rename_i lo _
          exact (Effects.one (.element lo b s)).trans (ih { s with tables := s.tables.writeElement lo b } _)

theorem consumeData_effects (body : List Byte) (s : State) : Effects s (consumeData body s) := by
  unfold consumeData
  split
  · exact .refl s
  · rename_i x _
    have h1 := (loadBytes_effects s x body).trans
      (.one (.link { s.link with exchange := some (loadBytes s.tables x body).2.1 } _))
    dsimp only
    split
    · exact h1.trans (.ofLinkOnly (sendResult_linkOnly _ _ _ _))
    · exact h1.trans (.ofLinkOnly (sendResult_linkOnly _ _ _ _))
    · split
      · exact h1.trans (.ofLinkOnly (sendResult_linkOnly _ _ _ _))
      · exact h1

theorem takeTableCommit_effects (tag : Byte) (e : Word16) (p : List Byte) (s : State) :
    Effects s (takeTableCommit tag e p s) := by
  refine takeNone_effects _ _ _ _ fun s => ?_
  split
  · split
    · rename_i hk
      split
      · rename_i hs hc
        split
        · exact refuse_effects _ _ _
        · rename_i hp
          split
          · exact refuse_effects _ _ _
          · split
            · exact refuse_effects _ _ _
            · split
              · exact refuse_effects _ _ _
              · rename_i ho
                obtain ⟨k', _, hb⟩ := Option.bind_eq_some_iff.mp hk
                obtain ⟨b', hb', he⟩ := Option.map_eq_some_iff.mp hb
                cases he
                exact okResult_after _ (.one (.commit _ _ _ s hb' hs hc (by simpa using hp) ho))
      · exact refuse_effects _ _ _
    · exact refuse_effects _ _ _
  · exact refuse_effects _ _ _

theorem takeTableSelect_effects (tag : Byte) (e : Word16) (p : List Byte) (s : State) :
    Effects s (takeTableSelect tag e p s) := by
  refine takeNone_effects _ _ _ _ fun s => ?_
  split
  · split
    · split
      · exact okResult_effects _ _
      · exact okResult_effects _ _
      · rename_i hs
        split
        · exact refuse_effects _ _ _
        · rename_i hp
          exact okResult_after _ (.one (.select _ s hs (by simpa using hp)))
      all_goals exact refuse_effects _ _ _
    · exact refuse_effects _ _ _
  · exact refuse_effects _ _ _

theorem takeTableRead_effects (tag : Byte) (e : Word16) (p : List Byte) (s : State) :
    Effects s (takeTableRead tag e p s) := by
  refine takeData_effects _ _ _ _ fun s => ?_
  repeat' split
  · exact startSending_effects _ _
  all_goals exact refuse_effects _ _ _

theorem takeFetchNotices_effects (tag : Byte) (e : Word16) (p : List Byte) (s : State) :
    Effects s (takeFetchNotices tag e p s) := by
  refine takeData_effects _ _ _ _ fun s => ?_
  split
  · exact startSending_effects _ _
  · exact refuse_effects _ _ _

theorem onAlertLine_effects {n : Byte} {act : AlertLine → AlertLine} {s t : State} (h : onAlertLine n act s = some t) :
    Effects s t := by
  unfold onAlertLine at h
  split at h
  · cases h; exact .one (.alerts _ s.alertB s)
  · cases h; exact .one (.alerts s.alertA _ s)
  · simp at h

theorem takeRouteSet_effects (tag : Byte) (e : Word16) (p : List Byte) (s : State) : Effects s (takeRouteSet tag e p s) := by
  refine takeNone_effects _ _ _ _ fun s => ?_
  split
  · split
    · split
      · split
        · rename_i h
          exact okResult_after _ (onAlertLine_effects h)
        · exact refuse_effects _ _ _
      · exact refuse_effects _ _ _
    · exact refuse_effects _ _ _
  · exact refuse_effects _ _ _

theorem takeClearAlert_effects (tag : Byte) (e : Word16) (p : List Byte) (s : State) :
    Effects s (takeClearAlert tag e p s) := by
  refine takeNone_effects _ _ _ _ fun s => ?_
  split
  · split
    · rename_i h
      exact okResult_after _ (onAlertLine_effects h)
    · exact refuse_effects _ _ _
  · exact refuse_effects _ _ _

theorem takeOp_effects (op : Op) (tag : Byte) (e : Word16) (p : List Byte) (s : State) : Effects s (takeOp op tag e p s) := by
  cases op
  · exact takeIdentify_effects _ _ _ _
  · exact takeReadStatus_effects _ _ _ _
  · exact takeParamSet_effects _ _ _ _
  · exact takeParamGet_effects _ _ _ _
  · exact takeRestart_effects _ _ _ _
  · exact takeLineSetup_effects _ _ _ _
  · exact takeLineStop_effects _ _ _ _
  · exact takeProbeEnrol_effects _ _ _ _
  · exact takeProbeWithdraw_effects _ _ _ _
  · exact takeProbeHold_effects _ _ _ _
  · exact takeProbeRelease_effects _ _ _ _
  · exact takeReadProbes_effects _ _ _ _
  · exact takeHeatProbe_effects _ _ _ _
  · exact takeZoneDefine_effects _ _ _ _
  · exact takeZoneClose_effects _ _ _ _
  · exact takeReadZones_effects _ _ _ _
  · exact takeTableBegin_effects _ _ _ _
  · exact takeTableLoad_effects _ _ _ _
  · exact takeTableCommit_effects _ _ _ _
  · exact takeTableSelect_effects _ _ _ _
  · exact takeTableRead_effects _ _ _ _
  · exact takeFetchNotices_effects _ _ _ _
  · exact takeRouteSet_effects _ _ _ _
  · exact takeClearAlert_effects _ _ _ _

theorem takeRequest_effects (tag : Byte) (body : List Byte) (s : State) : Effects s (takeRequest tag body s) := by
  unfold takeRequest
  split
  · split
    · exact takeOp_effects _ _ _ _ _
    · exact (openExchange_effects _ _ _ s).trans (refuse_effects _ _ _)
  · exact (openExchange_effects _ _ _ s).trans (refuse_effects _ _ _)
  · exact (openExchange_effects _ _ _ s).trans (refuse_effects _ _ _)

/-! ### Frames and bytes -/

theorem goodData_effects (tag : Byte) (body : List Byte) (s : State) : Effects s (goodData tag body s) := by
  unfold goodData
  split
  · split
    · exact consumeData_effects _ _
    · exact .ofLinkOnly (sendResult_linkOnly _ _ _ _)
  · exact .refl s

theorem goodFrame_effects (kind tag : Byte) (body : List Byte) (s : State) : Effects s (goodFrame kind tag body s) := by
  unfold goodFrame
  split
  · exact goodRequest_effects _ _ _ (takeRequest_effects _ _)
  · split
    · exact goodData_effects _ _ _
    · exact .refl s

theorem frameEnds_effects (kind tag : Byte) (body : List Byte) (s : State) : Effects s (frameEnds kind tag body s) := by
  unfold frameEnds
  split
  · exact (dropPartial_effects s).trans (goodFrame_effects _ _ _ _)
  · exact (dropPartial_effects s).trans (frameDamaged_effects _)

theorem judgeFrame_effects (bs : List Byte) (s : State) : Effects s (judgeFrame bs s) := by
  unfold judgeFrame
  split
  · dsimp only
    split
    · split
      · exact goodFrame_effects _ _ _ _
      · exact frameDamaged_effects _
    · exact .refl s
  · exact .refl s

theorem receiveByte_effects (s : State) (b : Byte) : Effects s (receiveByte s b) := by
  unfold receiveByte
  split
  · split
    · exact .one (.link _ s)
    · exact .refl s
  · dsimp only
    split
    · exact .one (.link _ s)
    · split
      · exact (dropPartial_effects s).trans (frameDamaged_effects _)
      · split
        · exact (dropPartial_effects s).trans (judgeFrame_effects _ _)
        · exact .one (.link _ s)

theorem receiveFramingError_effects (s : State) : Effects s (receiveFramingError s) := by
  unfold receiveFramingError
  split
  · exact (dropPartial_effects s).trans (frameDamaged_effects _)
  · exact .refl s

theorem receiveLinkCharacter_effects (s : State) (c : LinkCharacter) : Effects s (receiveLinkCharacter s c) := by
  unfold receiveLinkCharacter
  split
  · exact receiveFramingError_effects s
  · exact receiveByte_effects s _

theorem receiveLinkCharacters_effects (cs : List LinkCharacter) (s : State) :
    Effects s (cs.foldl receiveLinkCharacter s) := by
  induction cs generalizing s with
  | nil => exact .refl s
  | cons c cs ih => exact (receiveLinkCharacter_effects s c).trans (ih _)

theorem frameSent_effects (f : OutFrame) (x : Exchange) (s : State) : Effects s (frameSent f x s) := by
  unfold frameSent
  exact .step (.one (.sent s)) (.link _ _)

/-! ### Lines -/

theorem receiveCharacter_effects (l : LineId) (t : Txn) (b : BitVec 9) (s : State) (h : (s.line l).state = .busy t)
    (ht : t.receiving = true) : Effects s (receiveCharacter l (s.line l) t b s) := by
  have hp : t.phase = .receiving := by simp [Txn.receiving] at ht; exact ht.1
  unfold receiveCharacter
  split
  · rename_i hj; exact .one (.character l t b s h ht hj)
  · rename_i o hj
    refine .one (.early l _ t _ o s (.inr rfl) h (.inr hp) (.inl rfl) ?_)
    unfold judgeCharacter at hj
    repeat' split at hj
    all_goals cases hj
    all_goals exact ⟨nofun, nofun⟩
  · rename_i hj; exact .one (.whole l t b _ s h ht hj)

/-! ### Every command -/

/-- Every command is a chain of effects. -/
theorem exec_effects {c : Instr} {s t : State} (h : exec c s = .next t) : Effects s t := by
  have req : ∀ (tag : Byte) (body : List Byte) (take : State → State), (∀ s, Effects s (take s)) →
      (Host.Outcome.next (requestFrame tag body take s) : Host.Outcome State Fault Refusal) = .next t → Effects s t := by
    intro tag body take ht he
    cases he
    exact requestFrame_effects _ _ _ ht
  cases c <;> unfold exec at h <;> dsimp only at h
  case identify => exact req _ _ _ (takeIdentify_effects _ _ _) h
  case readStatus => exact req _ _ _ (takeReadStatus_effects _ _ _) h
  case paramSet => exact req _ _ _ (takeParamSet_effects _ _ _) h
  case paramGet => exact req _ _ _ (takeParamGet_effects _ _ _) h
  case restart => exact req _ _ _ (takeRestart_effects _ _ _) h
  case lineSetup => exact req _ _ _ (takeLineSetup_effects _ _ _) h
  case lineStop => exact req _ _ _ (takeLineStop_effects _ _ _) h
  case probeEnrol => exact req _ _ _ (takeProbeEnrol_effects _ _ _) h
  case probeWithdraw => exact req _ _ _ (takeProbeWithdraw_effects _ _ _) h
  case probeHold => exact req _ _ _ (takeProbeHold_effects _ _ _) h
  case probeRelease => exact req _ _ _ (takeProbeRelease_effects _ _ _) h
  case readProbes => exact req _ _ _ (takeReadProbes_effects _ _ _) h
  case heatProbe => exact req _ _ _ (takeHeatProbe_effects _ _ _) h
  case zoneDefine => exact req _ _ _ (takeZoneDefine_effects _ _ _) h
  case zoneClose => exact req _ _ _ (takeZoneClose_effects _ _ _) h
  case readZones => exact req _ _ _ (takeReadZones_effects _ _ _) h
  case tableBegin => exact req _ _ _ (takeTableBegin_effects _ _ _) h
  case tableLoad => exact req _ _ _ (takeTableLoad_effects _ _ _) h
  case tableCommit => exact req _ _ _ (takeTableCommit_effects _ _ _) h
  case tableSelect => exact req _ _ _ (takeTableSelect_effects _ _ _) h
  case tableRead => exact req _ _ _ (takeTableRead_effects _ _ _) h
  case fetchNotices => exact req _ _ _ (takeFetchNotices_effects _ _ _) h
  case routeSet => exact req _ _ _ (takeRouteSet_effects _ _ _) h
  case clearAlert => exact req _ _ _ (takeClearAlert_effects _ _ _) h
  case badOpRequest => exact req _ _ _ (takeRequest_effects _ _) h
  case requestAbandonsReceiving => exact req _ _ _ (takeRequest_effects _ _) h
  case requestAbandonsSending => exact req _ _ _ (takeRequest_effects _ _) h
  case waitingRequest => exact req _ _ _ (takeRequest_effects _ _) h
  case dataFrame => cases h; exact frameEnds_effects _ _ _ _
  case damagedFrame d =>
    cases d <;> simp only [execDamagedFrame] at h <;> cases h
    · split
      · exact frameEnds_effects _ _ _ _
      · exact (dropPartial_effects s).trans (frameDamaged_effects _)
    · split
      · exact (dropPartial_effects s).trans (frameDamaged_effects _)
      · exact .refl s
    · exact receiveFramingError_effects s
  case frameDiscarded => cases h; exact frameEnds_effects _ _ _ _
  case frameGapTimeout => cases h; exact dropPartial_effects s
  case silenceTimeout =>
    unfold execSilenceTimeout at h
    split at h <;> cases h
    · exact .ofLinkOnly (sendResult_linkOnly _ _ _ _)
    all_goals exact .refl s
  case dataFrameTransmitted =>
    unfold execDataFrameTransmitted at h
    split at h
    · cases h
      split
      · exact (frameSent_effects _ _ s).trans (endSending_effects _ _)
      · exact (frameSent_effects _ _ s).trans (buildNext_effects _)
    · cases h; exact .refl s
  case resultFrameTransmitted =>
    unfold execResultFrameTransmitted at h
    split at h
    · cases h; exact .refl s
    · split at h
      · cases h; exact .one (.restart s)
      · split at h <;> cases h
        · exact (Effects.one (.link _ s)).trans (takeRequest_effects _ _ _)
        · exact .one (.link _ s)
  case hardwareReset => cases h; exact .one (.reset _ s)
  case timeBaseTick => cases h; exact .one (.tick s)
  case zoneTimerExpiry =>
    unfold execZoneTimerExpiry at h
    split at h
    · split at h
      · split at h <;> cases h
        · exact .refl s
        · exact .one (.expiry _ _ _ s ‹_› ‹_›)
      · cases h; exact .refl s
    · cases h; exact .refl s
  case evaluationCompletion =>
    unfold execEvaluationCompletion at h
    split at h <;> cases h
    · exact .one (.completion _ s ‹_›)
    · exact .refl s
  case slotDue =>
    unfold execSlotDue at h
    split at h
    · split at h <;> cases h
      · exact .one (.due _ _ s ‹_›)
      · exact .refl s
    · cases h; exact .refl s
  case pollStart =>
    unfold execPollStart at h
    dsimp only at h
    split at h
    · rename_i hc
      split at h
      · split at h <;> cases h
        · exact .one (.pollStart _ _ _ s hc.1 hc.2 ‹_› ‹_›)
        · exact .refl s
      · cases h; exact .refl s
    · cases h; exact .refl s
  case pollSent =>
    unfold execPollSent at h
    dsimp only at h
    split at h
    · split at h <;> cases h
      · exact .one (.pollSent _ _ s ‹_› ‹_›)
      · exact .refl s
    all_goals cases h; exact .refl s
  case lineLeavesIdleLevel =>
    unfold execLineLeavesIdleLevel at h
    split at h <;> cases h
    · exact .refl s
    · rename_i ha; exact .one (.leave _ s (by simpa using ha))
  case lineReturnsToIdleLevel l =>
    unfold execLineReturnsToIdleLevel at h
    split at h
    · rename_i ha
      dsimp only at h
      have hst : (s.line l).atIdle.state = (s.line l).state := rfl
      split at h
      · rename_i t hb
        rw [hst] at hb
        split at h <;> cases h
        · rename_i hp
          exact .one (.early _ _ t _ .malformed s (.inr rfl) hb (.inr hp.1) (.inl rfl) (by simp))
        · exact .one (.return _ s ha (by simp [hb]))
      · rename_i hb
        rw [hst] at hb
        cases h; exact .one (.rest _ s ha hb)
      · rename_i hb
        rw [hst] at hb
        cases h; exact .one (.return _ s ha (by simp [hb]))
      · rename_i hb
        rw [hst] at hb
        cases h; exact .one (.return _ s ha (by simp [hb]))
    · cases h; exact .refl s
  case replyTimeout =>
    unfold execReplyTimeout at h
    split at h
    · rename_i hb
      split at h <;> cases h
      · rename_i hp; exact .one (.early _ _ _ _ _ s (.inl rfl) hb (.inl hp) (.inr rfl) (by simp))
      · exact .refl s
    all_goals cases h; exact .refl s
  case replyCharacter =>
    unfold execReplyCharacter at h
    split at h
    · rename_i hb
      split at h <;> cases h
      · rename_i hp; exact receiveCharacter_effects _ _ _ s hb hp
      · exact .refl s
    all_goals cases h; exact .refl s
  case replyFramingError =>
    unfold execReplyFramingError at h
    split at h
    · rename_i hb
      split at h <;> cases h
      · rename_i hp; exact .one (.framing _ _ s hb hp)
      · exact .refl s
    all_goals cases h; exact .refl s
  case replyGapTimeout =>
    unfold execReplyGapTimeout at h
    split at h
    · rename_i t hb
      split at h <;> cases h
      · rename_i hp
        have hr : t.phase = .receiving := by simp [Txn.receiving] at hp; exact hp.1.1.1
        exact .one (.early _ _ _ _ _ s (.inl rfl) hb (.inr hr) (.inr rfl) (by simp))
      · exact .refl s
    all_goals cases h; exact .refl s
  case replyComplete =>
    unfold execReplyComplete at h
    split at h
    · rename_i hb
      split at h <;> cases h
      · rename_i hp; exact receiveCharacter_effects _ _ _ s hb hp
      · exact .refl s
    all_goals cases h; exact .refl s
  case discardingEnd =>
    unfold execDiscardingEnd at h
    split at h
    · rename_i hb
      split at h <;> cases h
      · rename_i hp; exact .one (.discarded _ _ s hb hp.1)
      · exact .refl s
    all_goals cases h; exact .refl s
  case turnaroundEnd =>
    unfold execTurnaroundEnd at h
    split at h
    · rename_i hb
      split at h <;> cases h
      · rename_i hp; exact .one (.turned _ _ s hb hp)
      · exact .refl s
    all_goals cases h; exact .refl s
  case lineFaultEntry =>
    unfold execLineFaultEntry at h
    split at h
    · rename_i hb
      split at h <;> cases h
      · rename_i ha; exact .one (.fault _ s (.inl hb) ha)
      · exact .refl s
    · rename_i t hb
      split at h <;> cases h
      · rename_i ha; exact .one (.fault _ s (.inr ⟨t, hb⟩) ha)
      · exact .refl s
    all_goals cases h; exact .refl s
  case lineRecovery =>
    unfold execLineRecovery at h
    dsimp only at h
    split at h <;> cases h
    · rename_i hp; exact .one (.recovery _ s hp.1 hp.2)
    · exact .refl s
  case heatEnd =>
    unfold execHeatEnd at h
    split at h
    · split at h
      · split at h <;> cases h
        · rename_i hp; exact .one (.heatEnd _ _ s ‹_› hp.1)
        · exact .refl s
      · cases h; exact .refl s
    · cases h; exact .refl s
  case leadByte => cases h; exact receiveLinkCharacters_effects _ s

end Sys2Proof.Machine
end

