-- ==== Sys2Proof/Laws/Fields.lean ====
section
/-! SUPPORT. Reading a field back from a record: what `fieldAt` gives where the record goes on with a byte, a number, a signed number, a time or flag bits. -/

namespace Sys2Proof.Machine

@[simp] theorem toNat_byte (n : Nat) : (byte n).toNat = n % 256 := by simp [byte]

theorem fieldAt_byte {r : List Byte} {a : Nat} {b : Byte} {l : List Byte} (h : r.drop a = b :: l) :
    fieldAt r a 1 = b.toNat := by simp [fieldAt, h]

theorem fieldAt_number {r : List Byte} {a n : Nat} {l : List Byte} (h : r.drop a = bytes16 n ++ l) :
    fieldAt r a 2 = n % 65536 := by
  simp [fieldAt, h, bytes16, byte]; omega

theorem fieldAt_signed {r : List Byte} {a : Nat} {i : Int} {l : List Byte} (h : r.drop a = bytesSigned i ++ l) :
    fieldAt r a 2 = signedField i := by
  unfold bytesSigned at h
  rw [fieldAt_number h]
  exact Nat.mod_eq_of_lt (BitVec.isLt _)

theorem fieldAt_time {r : List Byte} {a : Nat} {t : Time} {l : List Byte} (h : r.drop a = bytesTime t ++ l) :
    fieldAt r a 4 = t.toNat := by
  have := t.isLt
  simp [fieldAt, h, bytesTime, Nat.shiftRight_eq_div_pow]; omega

theorem testBit_flagBits (l : List Bool) (k : Nat) : (flagBits l).testBit k = l.getD k false := by
  induction l generalizing k with
  | nil => simp [flagBits]
  | cons b bs ih =>
    cases k with
    | zero => cases b <;> simp [flagBits, Nat.testBit_zero]
    | succ k =>
      have : (flagBits (b :: bs)) / 2 = flagBits bs := by cases b <;> simp [flagBits] <;> omega
      rw [Nat.testBit_succ, this, ih]; rfl

theorem flagBits_lt (l : List Bool) : flagBits l < 2 ^ l.length := by
  induction l with
  | nil => simp [flagBits]
  | cons b bs ih => cases b <;> simp [flagBits, Nat.pow_succ] <;> omega

/-- The bits of a byte of flags. -/
theorem fieldAt_flags {r : List Byte} {a : Nat} {l : List Byte} {fl : List Bool} (hl : fl.length ≤ 8)
    (h : r.drop a = byte (flagBits fl) :: l) (k : Nat) : (fieldAt r a 1).testBit k = fl.getD k false := by
  have : flagBits fl < 256 := Nat.lt_of_lt_of_le (flagBits_lt fl) (Nat.pow_le_pow_right (by decide) hl)
  rw [fieldAt_byte h, toNat_byte, Nat.mod_eq_of_lt this, testBit_flagBits]

end Sys2Proof.Machine
end

