-- ==== Sys2Proof/Laws/Slots.lean ====
section
/-! SUPPORT. What taking an outcome, a miss and a recomputation do to the slots: which slot they write, that no slot changes its line, and which properties of the state they keep. -/

namespace Sys2Proof.Machine

/-- The free order of a list holds the list's slots. -/
theorem freeOrder_perm (c : Nat) (l : List SlotId) : (freeOrder c l).Perm l := by
  induction l with
  | nil => exact .refl _
  | cons x xs ih =>
    unfold freeOrder
    dsimp only
    exact (List.perm_insertIdx _ _ (Nat.lt_succ_iff.mp (Nat.mod_lt _ (Nat.succ_pos _)))).trans (ih.cons x)

/-! ### The slot an operation writes -/

/-- No slot but `i` differs. -/
def OnlySlot (i : SlotId) (s t : State) : Prop := ∀ j, j ≠ i → t.slot j = s.slot j

theorem takeMiss_slot (i o) (s : State) : (takeMiss i o s).slot i = (s.slot i).map fun r =>
   if (r.state = .pending ∨ r.state = .live) ∧ s.params.missLimit ≤ (r.missed o).misses then (r.missed o).lost else r.missed o := by
  unfold takeMiss
  cases h : s.slot i with
  | none => simpa using h
  | some r =>
    dsimp only; split
    · rename_i hc; rw [((emit_noticesOnly _ _).trans (onset_noticesOnly _ _)).slot]; simp [if_pos hc]
    · rename_i hc; simp [if_neg hc]
theorem onlySlot_takeMiss (i o) (s : State) : OnlySlot i s (takeMiss i o s) := by
  intro j hj
  unfold takeMiss
  split
  · rfl
  · split
    · rw [((emit_noticesOnly _ _).trans (onset_noticesOnly _ _)).slot, slot_setSlot_other _ _ (Ne.symm hj)]
    · rw [slot_setSlot_other _ _ (Ne.symm hj)]
theorem onlySlot_writeLastPoll (i o) (s : State) : OnlySlot i s (writeLastPoll i o s) := by
  intro j hj; unfold writeLastPoll; split
  · rw [slot_setSlot_other _ _ (Ne.symm hj)]
  · rfl
theorem onlySlot_advance (i) (s : State) : OnlySlot i s (advance i s) := by
  intro j hj; unfold advance; split
  · split
    · dsimp only; rw [slot_setSlot_other _ _ (Ne.symm hj)]
    · rfl
  · rfl
theorem OnlySlot.trans {i} {s t u : State} (h : OnlySlot i s t) (k : OnlySlot i t u) : OnlySlot i s u := fun j hj => (k j hj).trans (h j hj)
theorem onlySlot_handMiss (i lp o) (s : State) : OnlySlot i s (handOutcome i lp (.miss o) s) :=
  ((onlySlot_writeLastPoll _ _ _).trans (onlySlot_takeMiss _ _ _)).trans (onlySlot_advance _ _)
theorem onlySlot_missIfFaulted (i) (s : State) : OnlySlot i s (missIfFaulted i s) := by
  unfold missIfFaulted
  split
  · split
    · exact onlySlot_handMiss _ _ _ _
    · intro _ _; rfl
  · intro _ _; rfl
theorem onlySlot_recompute (i) (s : State) : OnlySlot i s (recompute i s) := by
  unfold recompute
  split
  · intro _ _; rfl
  · split
    · split
      · exact OnlySlot.trans (t := s.setSlot i _) (fun j hj => slot_setSlot_other _ _ (Ne.symm hj)) (onlySlot_missIfFaulted _ _)
      · split
        · exact (onlySlot_advance _ _).trans (onlySlot_missIfFaulted _ _)
        · exact fun j hj => slot_setSlot_other _ _ (Ne.symm hj)
    · intro _ _; rfl

/-- Every slot keeps its line. -/
def LinesStay (s t : State) : Prop := ∀ j, (t.slot j).map Slot.line = (s.slot j).map Slot.line
theorem LinesStay.trans {s t u : State} (h : LinesStay s t) (k : LinesStay t u) : LinesStay s u := fun j => (k j).trans (h j)
theorem linesStay_setSlot {s : State} {i r r'} (h : s.slot i = some r) (hl : r'.line = r.line) : LinesStay s (s.setSlot i (some r')) := by
  intro j
  rw [slot_setSlot]
  split
  · rename_i e; subst e; simp [h, hl]
  · rfl
theorem NoticesOnly.linesStay {s t : State} (h : NoticesOnly s t) : LinesStay s t := fun j => by rw [h.slot]

theorem linesStay_takeMiss (i o) (s : State) : LinesStay s (takeMiss i o s) := by
  unfold takeMiss
  split
  · intro _; rfl
  · rename_i r h
    split
    · exact (linesStay_setSlot (r' := (r.missed o).lost) h rfl).trans (NoticesOnly.linesStay ((emit_noticesOnly _ _).trans (onset_noticesOnly _ _)))
    · exact linesStay_setSlot h rfl
theorem linesStay_writeLastPoll (i o) (s : State) : LinesStay s (writeLastPoll i o s) := by
  unfold writeLastPoll; split
  · rename_i r h; exact linesStay_setSlot h rfl
  · intro _; rfl
theorem linesStay_advance (i) (s : State) : LinesStay s (advance i s) := by
  unfold advance; split
  · rename_i r h
    split
    · exact linesStay_setSlot h rfl
    · intro _; rfl
  · intro _; rfl
theorem linesStay_handMiss (i lp o) (s : State) : LinesStay s (handOutcome i lp (.miss o) s) :=
  ((linesStay_writeLastPoll _ _ _).trans (linesStay_takeMiss _ _ _)).trans (linesStay_advance _ _)
theorem linesStay_missIfFaulted (i) (s : State) : LinesStay s (missIfFaulted i s) := by
  unfold missIfFaulted
  split
  · split
    · exact linesStay_handMiss _ _ _ _
    · intro _; rfl
  · intro _; rfl
theorem linesStay_recompute (i) (s : State) : LinesStay s (recompute i s) := by
  unfold recompute
  split
  · intro _; rfl
  · rename_i r h
    split
    · split
      · exact LinesStay.trans (t := s.setSlot i (some (r.pulledEarlier s.timeBase s.params))) (linesStay_setSlot h rfl) (linesStay_missIfFaulted _ _)
      · split
        · exact (linesStay_advance _ _).trans (linesStay_missIfFaulted _ _)
        · exact linesStay_setSlot h rfl
    · intro _; rfl

theorem onFaultLine_congr {s t : State} (h : LinesStay s t) (hl : t.lines = s.lines) (m) : onFaultLine t m = onFaultLine s m := by
  unfold onFaultLine
  have := h m
  have hl' : ∀ l, t.line l = s.line l := fun l => by unfold State.line; rw [hl]
  cases h1 : t.slot m <;> cases h2 : s.slot m <;> simp [h1, h2] at this
  · rfl
  · dsimp only; rw [this, hl']

/-! ### Properties that outcomes and recomputation keep -/

/-- `P` survives a notice's arrival, a write of a slot, the onset of an alert source and a use of the free count. -/
def Quiet (P : State → Prop) : Prop :=
  (∀ n s, P s → P (arrive n s)) ∧ (∀ i r s, P s → P (s.setSlot i r)) ∧ (∀ src s, P s → P (onset src s))
    ∧ (∀ n s, P s → P { s with freeCount := n })

section
variable {P : State → Prop} (h : Quiet P)
include h
theorem quiet_emit (b) (s) (p : P s) : P (emit b s) := h.1 _ _ p
omit h in
theorem quiet_foldl {act : SlotId → State → State} (ha : ∀ i s, P s → P (act i s)) (l : List SlotId) (s) (p : P s) :
    P (l.foldl (fun s i => act i s) s) := by
  induction l generalizing s with
  | nil => exact p
  | cons i l ih => exact ih _ (ha _ _ p)
theorem quiet_inFreeOrder {act : SlotId → State → State} (ha : ∀ i s, P s → P (act i s)) (l : List SlotId) (s) (p : P s) :
    P (inFreeOrder act l s) := by
  unfold inFreeOrder; split
  · exact quiet_foldl ha l s p
  · exact quiet_foldl ha _ _ (h.2.2.2 _ _ p)
theorem quiet_advance i s (p : P s) : P (advance i s) := by
  unfold advance; repeat' split
  · exact h.2.1 _ _ _ p
  · exact p
  · exact p
theorem quiet_tryArm i r s (p : P s) : P (tryArm i r s) := by
  unfold tryArm; repeat' split
  · exact h.2.1 _ _ _ p
  · exact p
  · exact quiet_emit h _ _ (h.2.1 _ _ _ p)
theorem quiet_heaterSees i n s (p : P s) : P (heaterSees i n s) := by
  unfold heaterSees; repeat' split
  · exact p
  · exact quiet_tryArm h _ _ _ (h.2.1 _ _ _ p)
  · exact h.2.1 _ _ _ p
  · exact h.2.1 _ _ _ p
theorem quiet_takeMiss i n s (p : P s) : P (takeMiss i n s) := by
  unfold takeMiss; repeat' split
  · exact p
  · exact h.2.2.1 _ _ (quiet_emit h _ _ (h.2.1 _ _ _ p))
  · exact h.2.1 _ _ _ p
theorem quiet_noteChange i a b s (p : P s) : P (noteChange i a b s) := by
  unfold noteChange; split
  · exact p
  · exact quiet_emit h _ _ p
theorem quiet_acceptReading i r rd s (p : P s) : P (acceptReading i r rd s) := by
  unfold acceptReading; dsimp only
  repeat' split
  · exact quiet_heaterSees h _ _ _ (quiet_noteChange h _ _ _ _ (h.2.1 _ _ _ p))
  · exact (quiet_noteChange h _ _ _ _ (h.2.1 _ _ _ p))
  · exact (quiet_noteChange h _ _ _ _ (h.2.1 _ _ _ p))
theorem quiet_takeReport i rep s (p : P s) : P (takeReport i rep s) := by
  cases rep
  · simp only [takeReport, takeGoodRead]; repeat' split
    · exact p
    · exact quiet_acceptReading h _ _ _ _ p
    · exact quiet_takeMiss h _ _ _ p
  · simp only [takeReport, takeGoodHeat]; repeat' split
    · exact p
    · exact h.2.1 _ _ _ p
    · exact quiet_emit h _ _ (h.2.1 _ _ _ p)
  · exact quiet_takeMiss h _ _ _ p
theorem quiet_handOutcome i t rep s (p : P s) : P (handOutcome i t rep s) := by
  unfold handOutcome writeLastPoll
  split
  · exact quiet_advance h _ _ (quiet_takeReport h _ _ _ (h.2.1 _ _ _ p))
  · exact quiet_advance h _ _ (quiet_takeReport h _ _ _ p)
theorem quiet_missIfFaulted i s (p : P s) : P (missIfFaulted i s) := by
  unfold missIfFaulted faultMiss
  repeat' split
  · exact quiet_handOutcome h _ _ _ _ p
  all_goals exact p
theorem quiet_recompute i s (p : P s) : P (recompute i s) := by
  unfold recompute; repeat' split
  · exact p
  · exact quiet_missIfFaulted h _ _ (h.2.1 _ _ _ p)
  · exact quiet_missIfFaulted h _ _ (quiet_advance h _ _ p)
  · exact h.2.1 _ _ _ p
  · exact p
theorem quiet_recomputeMembers ms s (p : P s) : P (recomputeMembers ms s) := by
  unfold recomputeMembers
  exact quiet_inFreeOrder h (fun i s => quiet_recompute h i s) _ _ (quiet_foldl (fun i s => quiet_recompute h i s) _ _ p)
end

end Sys2Proof.Machine
end

