-- ==== Sys2Proof/Laws/Recompute.lean ====
section
/-! SUPPORT. What the recomputation of members does (R138, R150): the slots it writes, the misses it gives on lines in FAULT, and that it depends only on what the probes read. -/

namespace Sys2Proof.Machine

/-! ### The pace and the recomputed slot -/

/-- What the pace of a slot reads of a zone (R147). -/
def paceKey (r : Option Zone) : Option (ZoneDef × ZoneState × Nat) := r.map fun r => (r.defn, r.state, r.riseCount)

theorem calledFast_congr {s u : State} (h : ∀ y, paceKey (u.zone y) = paceKey (s.zone y)) (i) :
    calledFast u i = calledFast s i := by
  unfold calledFast
  congr 1
  funext y
  have := h y
  cases h1 : u.zone y <;> cases h2 : s.zone y <;> simp [paceKey, h1, h2] at this ⊢
  obtain ⟨a, b, c⟩ := this
  rw [a, b, c]

theorem paceOf_congr {s u : State} (h : ∀ y, paceKey (u.zone y) = paceKey (s.zone y)) (i r) :
    paceOf u i r = paceOf s i r := by
  unfold paceOf; rw [calledFast_congr h]

theorem paceOf_zones {s u : State} (h : u.zones = s.zones) (i r) : paceOf u i r = paceOf s i r := by
  unfold paceOf calledFast State.zone; rw [h]

/-- The pace of a schedulable slot is read off its state, not off its other fields. -/
theorem paceOf_state (s : State) (i) (r r' : Slot) (h : r'.state = r.state) (hh : ¬(r.state = .heating ∨ r.state = .held)) :
    paceOf s i r' = paceOf s i r := by
  unfold paceOf; rw [h]; cases hs : r.state <;> simp_all

theorem advancesAgain_congr {s u : State} (hz : ∀ y, paceKey (u.zone y) = paceKey (s.zone y)) (hp : u.params = s.params)
    (ht : u.timeBase = s.timeBase) (hl : u.lines = s.lines) (i r) : advancesAgain u i r = advancesAgain s i r := by
  unfold advancesAgain newlyAdvanced pollInFlight State.line; rw [paceOf_congr hz, hp, ht, hl]

/-- A slot that is advanced again goes from FAST to SETTLED. -/
theorem advancesAgain_paces {s i} {r : Slot} (h : advancesAgain s i r = true) : r.pace = .fast ∧ paceOf s i r = .settled := by
  simp only [advancesAgain, Bool.and_eq_true, beq_iff_eq] at h; exact h.1.1

theorem recomputed_congr {s u : State} (hz : ∀ y, paceKey (u.zone y) = paceKey (s.zone y)) (hp : u.params = s.params)
    (ht : u.timeBase = s.timeBase) (hl : u.lines = s.lines) (i r) : recomputed u i r = recomputed s i r := by
  unfold recomputed advanced; rw [paceOf_congr hz, advancesAgain_congr hz hp ht hl, hp, ht]

theorem recomputed_zones {s u : State} (hz : u.zones = s.zones) (hp : u.params = s.params) (ht : u.timeBase = s.timeBase)
    (hl : u.lines = s.lines) (i r) : recomputed u i r = recomputed s i r :=
  recomputed_congr (fun y => by unfold State.zone; rw [hz]) hp ht hl i r

theorem dueRewritten_congr {s u : State} (hz : ∀ y, paceKey (u.zone y) = paceKey (s.zone y)) (hp : u.params = s.params)
    (ht : u.timeBase = s.timeBase) (hl : u.lines = s.lines) (i r) : dueRewritten u i r ↔ dueRewritten s i r := by
  unfold dueRewritten; rw [paceOf_congr hz, advancesAgain_congr hz hp ht hl]

theorem schedulable_iff (r : Slot) : r.schedulable = true ↔ r.state ≠ .heating ∧ r.state ≠ .held := by
  cases h : r.state <;> simp [Slot.schedulable, h]

/-- A schedulable slot is neither HEATING nor HELD. -/
theorem not_heating_or_held {r : Slot} (h : r.schedulable = true) : ¬(r.state = .heating ∨ r.state = .held) := by
  simpa using (schedulable_iff r).mp h

theorem advanced_fields (s i r) :
    (advanced s i r).state = r.state ∧ (advanced s i r).line = r.line
      ∧ (¬(r.state = .heating ∨ r.state = .held) → (advanced s i r).pace = paceOf s i r) := by
  unfold advanced; split
  · rename_i h; exact ⟨rfl, rfl, fun g => absurd h g⟩
  · exact ⟨rfl, rfl, fun _ => rfl⟩

/-- Recomputation keeps a slot's state and line, and gives a schedulable slot the pace of its zones. -/
theorem recomputed_fields (s i r) :
    (recomputed s i r).state = r.state ∧ (recomputed s i r).line = r.line
      ∧ (¬(r.state = .heating ∨ r.state = .held) → (recomputed s i r).pace = paceOf s i r) := by
  unfold recomputed; split
  · rename_i h; exact ⟨rfl, rfl, fun g => absurd h g⟩
  · split
    · rename_i h; exact ⟨rfl, rfl, fun _ => h.2.symm⟩
    · split
      · exact advanced_fields s i r
      · exact ⟨rfl, rfl, fun _ => rfl⟩

theorem recomputed_state (s i r) : (recomputed s i r).state = r.state ∧ (recomputed s i r).line = r.line :=
  ⟨(recomputed_fields s i r).1, (recomputed_fields s i r).2.1⟩

/-- A slot whose pace is right is recomputed without a write of its next-due time. -/
theorem not_dueRewritten (s i) (r : Slot) (h : r.pace = paceOf s i r) : ¬dueRewritten s i r := by
  rintro (⟨a, b⟩ | g)
  · rw [← h, a] at b; cases b
  · obtain ⟨a, b⟩ := advancesAgain_paces g; rw [← h, a] at b; cases b

/-- With no write of its next-due time a slot is only given its pace. -/
theorem recomputed_kept (s i) (r : Slot) (hs : ¬(r.state = .heating ∨ r.state = .held)) (h : ¬dueRewritten s i r) :
    recomputed s i r = { r with pace := paceOf s i r } := by
  unfold recomputed
  rw [if_neg hs, if_neg fun g => h (.inl g), if_neg fun g => h (.inr g)]

/-- A slot whose pace is right is recomputed to itself. -/
theorem recomputed_fix (s i) (r : Slot) (h : r.schedulable = true → r.pace = paceOf s i r) : recomputed s i r = r := by
  by_cases hh : r.state = .heating ∨ r.state = .held
  · unfold recomputed; rw [if_pos hh]
  · have hp := h ((schedulable_iff r).mpr (by simpa using hh))
    rw [recomputed_kept s i r hh (not_dueRewritten s i r hp), ← hp]

/-- A recomputed slot has the pace of its state and zones. -/
theorem recomputed_pace (s i) (r : Slot) (h : (recomputed s i r).schedulable = true) :
    (recomputed s i r).pace = paceOf s i (recomputed s i r) := by
  obtain ⟨hs, _, hp⟩ := recomputed_fields s i r
  have hh := hs ▸ not_heating_or_held h
  rw [paceOf_state s i r _ hs hh, hp hh]

theorem recomputed_idem (s : State) (i r) : recomputed s i (recomputed s i r) = recomputed s i r :=
  recomputed_fix s i _ (recomputed_pace s i r)

/-- Everything `recompute` does to a schedulable slot: it becomes the recomputed slot, and where its next-due time was written it is
given the miss that a line in FAULT gives it (R138, R150, R151). -/
theorem recompute_schedulable (s : State) (i : SlotId) (r : Slot) (hr : s.slot i = some r) (hs : r.schedulable = true) :
    (dueRewritten s i r → recompute i s = missIfFaulted i (s.setSlot i (some (recomputed s i r))))
      ∧ (¬dueRewritten s i r → recompute i s = s.setSlot i (some (recomputed s i r))) := by
  have hh := not_heating_or_held hs
  constructor
  · rintro (h | h)
    · unfold recompute recomputed
      rw [hr]; dsimp only
      rw [if_pos hs, if_pos h, if_neg hh, if_pos h]; rfl
    · have n : ¬(r.pace = .settled ∧ paceOf s i r = .fast) := fun g => by rw [(advancesAgain_paces h).1] at g; cases g.1
      have ha : s.setSlot i (some (advanced s i r)) = advance i s := by
        unfold advance advanced
        rw [hr]; dsimp only
        rw [if_pos hs, if_neg hh]; cases paceOf s i r <;> rfl
      unfold recompute recomputed
      rw [hr]; dsimp only
      rw [if_pos hs, if_neg n, if_pos h, if_neg hh, if_neg n, if_pos h, ha]
  · intro h
    rw [recomputed_kept s i r hh h]
    unfold recompute
    rw [hr]; dsimp only
    rw [if_pos hs, if_neg fun g => h (.inl g), if_neg fun g => h (.inr g)]

/-- HEATING and HELD slots are not recomputed. -/
theorem recompute_unschedulable (s : State) (i : SlotId) (r : Slot) (hr : s.slot i = some r) (hs : ¬r.schedulable = true) :
    recompute i s = s.setSlot i (some (recomputed s i r)) := by
  rw [recomputed_fix s i r fun h => absurd h hs]
  unfold recompute; rw [hr]; dsimp only
  rw [if_neg hs, ← hr]
  show s = { s with slots := s.slots.set i.val (s.slots[i.val]) i.isLt }
  simp

/-! ### Members on lines that are not in FAULT -/

theorem recompute_unfaulted (s : State) (i : SlotId) (r : Slot) (hr : s.slot i = some r) (hf : onFaultLine s i = false) :
   recompute i s = s.setSlot i (some (recomputed s i r)) := by
  have hlf : (s.line r.line).state ≠ .fault := by
    unfold onFaultLine at hf; rw [hr] at hf; simpa using hf
  by_cases hs : r.schedulable = true
  · by_cases hw : dueRewritten s i r
    · rw [(recompute_schedulable s i r hr hs).1 hw]
      unfold missIfFaulted onFaultLine
      simp only [slot_setSlot_same]
      rw [if_neg]
      simp only [setSlot_line, Bool.and_eq_true, beq_iff_eq, (recomputed_state s i r).2]
      exact fun h => hlf h.2
    · exact (recompute_schedulable s i r hr hs).2 hw
  · exact recompute_unschedulable s i r hr hs

/-- Members on lines that are not in FAULT are recomputed, and nothing else changes. -/
theorem foldl_recompute_unfaulted (l : List SlotId) (u : State) (hf : ∀ m ∈ l, onFaultLine u m = false) :
   (∀ i, i ∉ l → (l.foldl (fun s m => recompute m s) u).slot i = u.slot i)
   ∧ (∀ i, i ∈ l → (l.foldl (fun s m => recompute m s) u).slot i = (u.slot i).map (recomputed u i))
   ∧ (l.foldl (fun s m => recompute m s) u) = { u with slots := (l.foldl (fun s m => recompute m s) u).slots } := by
  induction l generalizing u with
  | nil => exact ⟨fun _ _ => rfl, fun _ h => by simp at h, rfl⟩
  | cons m l ih =>
    simp only [List.foldl_cons]
    have hm : (recompute m u).slot m = (u.slot m).map (recomputed u m) ∧ recompute m u = { u with slots := (recompute m u).slots } := by
      cases hs : u.slot m with
      | none => unfold recompute; rw [hs]; exact ⟨by simpa using hs, rfl⟩
      | some r => rw [recompute_unfaulted u m r hs (hf m (by simp))]; exact ⟨by simp, rfl⟩
    have hst : LinesStay u (recompute m u) := linesStay_recompute m u
    have hln : (recompute m u).lines = u.lines := by rw [hm.2]
    obtain ⟨h1, h2, h3⟩ := ih (recompute m u) (fun k hk => by rw [onFaultLine_congr hst hln]; exact hf k (by simp [hk]))
    have hc : ∀ i r, recomputed (recompute m u) i r = recomputed u i r := recomputed_zones (by rw [hm.2]) (by rw [hm.2]) (by rw [hm.2]) hln
    refine ⟨?_, ?_, ?_⟩
    · intro i hi
      simp at hi
      rw [h1 i hi.2, onlySlot_recompute m u i hi.1]
    · intro i hi
      by_cases hil : i ∈ l
      · rw [h2 i hil]
        by_cases him : i = m
        · subst him; rw [hm.1]
          cases u.slot i with
          | none => rfl
          | some r => simp [hc, recomputed_idem]
        · rw [onlySlot_recompute m u i him]
          cases u.slot i with
          | none => rfl
          | some r => simp [hc]
      · have him : i = m := by simpa [hil] using hi
        subst him
        rw [h1 i hil, hm.1]
    · rw [h3, hm.2]

theorem foldl_recompute_other (l : List SlotId) (u : State) (i) (hi : i ∉ l) :
    (l.foldl (fun s m => recompute m s) u).slot i = u.slot i := by
  induction l generalizing u with
  | nil => rfl
  | cons m l ih => simp at hi; simp only [List.foldl_cons]; rw [ih _ hi.2, onlySlot_recompute m u i hi.1]

/-- What recomputing a list of slots does: slots outside it stay, slots on lines that are not in FAULT are recomputed, and
with none on a line in FAULT only slots change. -/
theorem recomputeMembers_slots (ms : List SlotId) (s : State) :
   (∀ i, i ∉ ms → (recomputeMembers ms s).slot i = s.slot i)
   ∧ (∀ i, i ∈ ms → onFaultLine s i = false → (recomputeMembers ms s).slot i = (s.slot i).map (recomputed s i))
   ∧ ((∀ m ∈ ms, onFaultLine s m = false) → recomputeMembers ms s = { s with slots := (recomputeMembers ms s).slots }) := by
  unfold recomputeMembers
  obtain ⟨h1, h2, h3⟩ := foldl_recompute_unfaulted (ms.filter fun m => !onFaultLine s m) s (fun m hm => by simp at hm; exact hm.2)
  generalize (ms.filter fun m => !onFaultLine s m).foldl (fun s m => recompute m s) s = v at *
  have key : ∀ (l : List SlotId) i, i ∉ l → (inFreeOrder recompute l v).slot i = v.slot i := by
    intro l i hi
    unfold inFreeOrder
    split
    · exact foldl_recompute_other l v i hi
    · exact foldl_recompute_other _ (countFree v) i (fun h => hi ((freeOrder_perm _ _).mem_iff.mp h))
  refine ⟨?_, ?_, ?_⟩
  · intro i hi
    rw [key _ i (by simp [hi]), h1 i (by simp [hi])]
  · intro i hi hf
    rw [key _ i (by simp [hf]), h2 i (by simp [hi, hf])]
  · intro hf
    have : ms.filter (fun m => onFaultLine s m) = [] := by rw [List.filter_eq_nil_iff]; intro m hm; simp [hf m hm]
    rw [this]
    exact h3

/-! ### States that give the same misses -/

/-- Two states agree on all that the misses of a line in FAULT read and on what they write. -/
structure SameForProbes (x y : State) : Prop where
  slots : x.slots = y.slots
  params : x.params = y.params
  time : x.timeBase = y.timeBase
  lines : x.lines = y.lines
  notices : x.notices = y.notices
  alertA : x.alertA = y.alertA
  alertB : x.alertB = y.alertB
  zones : ∀ z, paceKey (x.zone z) = paceKey (y.zone z)

theorem SameForProbes.slot {x y} (h : SameForProbes x y) (i) : x.slot i = y.slot i := by unfold State.slot; rw [h.slots]

theorem SameForProbes.setSlot {x y} (h : SameForProbes x y) (i r) : SameForProbes (x.setSlot i r) (y.setSlot i r) :=
  ⟨by simp only [State.setSlot, h.slots], h.params, h.time, h.lines, h.notices, h.alertA, h.alertB, h.zones⟩

theorem SameForProbes.onset {x y} (h : SameForProbes x y) (src) : SameForProbes (onset src x) (onset src y) :=
  ⟨h.slots, h.params, h.time, h.lines, h.notices, by show x.alertA.onOnset src = y.alertA.onOnset src; rw [h.alertA], by show x.alertB.onOnset src = y.alertB.onOnset src; rw [h.alertB], h.zones⟩

theorem SameForProbes.emit {x y} (h : SameForProbes x y) (b) : SameForProbes (emit b x) (emit b y) := by
  obtain ⟨x1, x2, x3, x4, x5, x6, x7, x8, x9, x10, x11, x12, x13, x14⟩ := x
  obtain ⟨y1, y2, y3, y4, y5, y6, y7, y8, y9, y10, y11, y12, y13, y14⟩ := y
  obtain ⟨h1, h2, h3, h4, h5, h6, h7, h8⟩ := h
  dsimp only at h1 h2 h3 h4 h5 h6 h7
  subst h1 h2 h3 h4 h5 h6 h7
  unfold Machine.emit arrive
  dsimp only
  split
  · split
    · exact ⟨rfl, rfl, rfl, rfl, rfl, rfl, rfl, h8⟩
    · exact ⟨rfl, rfl, rfl, rfl, rfl, rfl, rfl, h8⟩
  · split
    · exact ⟨rfl, rfl, rfl, rfl, rfl, rfl, rfl, h8⟩
    · exact ⟨rfl, rfl, rfl, rfl, rfl, rfl, rfl, h8⟩

theorem SameForProbes.takeMiss {x y} (h : SameForProbes x y) (i o) : SameForProbes (takeMiss i o x) (takeMiss i o y) := by
  unfold Machine.takeMiss
  rw [h.slot i, h.params]
  split
  · exact h
  · split
    · exact ((h.setSlot _ _).emit _).onset _
    · exact h.setSlot _ _

theorem SameForProbes.writeLastPoll {x y} (h : SameForProbes x y) (i o) :
    SameForProbes (writeLastPoll i o x) (writeLastPoll i o y) := by
  unfold Machine.writeLastPoll
  rw [h.slot i]
  split
  · exact h.setSlot _ _
  · exact h

theorem SameForProbes.advance {x y} (h : SameForProbes x y) (i) : SameForProbes (advance i x) (advance i y) := by
  unfold Machine.advance
  rw [h.slot i, h.params, h.time]
  split
  · split
    · rw [paceOf_congr h.zones]; exact h.setSlot _ _
    · exact h
  · exact h

theorem SameForProbes.miss {x y} (h : SameForProbes x y) (i lp o) :
    SameForProbes (handOutcome i lp (.miss o) x) (handOutcome i lp (.miss o) y) :=
  ((h.writeLastPoll _ _).takeMiss _ _).advance _

/-- The miss that a due slot of a line in FAULT is given (R138). -/
abbrev missStep (x : State) (i : SlotId) : State := handOutcome i x.timeBase (.miss .lineFault) x

theorem SameForProbes.giveMiss {x y} (h : SameForProbes x y) (i) : SameForProbes (missStep x i) (missStep y i) := by
  unfold missStep; rw [h.time]; exact h.miss _ _ _

theorem SameForProbes.fold {x y} (h : SameForProbes x y) (l : List SlotId) :
    SameForProbes (l.foldl missStep x) (l.foldl missStep y) := by
  induction l generalizing x y with
  | nil => exact h
  | cons i l ih => exact ih (SameForProbes.giveMiss h i)

theorem SameForProbes.recomputed {x y} (h : SameForProbes x y) (i r) :
    recomputed x i r = recomputed y i r := recomputed_congr h.zones h.params h.time h.lines i r

theorem SameForProbes.onFault {x y} (h : SameForProbes x y) (i) : onFaultLine x i = onFaultLine y i := by
  unfold onFaultLine State.line; rw [h.slot i, h.lines]

theorem SameForProbes.givenMiss {x y} (h : SameForProbes x y) (d i) : givenMiss x d i ↔ givenMiss y d i := by
  unfold Machine.givenMiss
  rw [h.onFault, h.slot i]
  simp only [h.recomputed, dueRewritten_congr h.zones h.params h.time h.lines]

theorem slot_recomputedMembers (b : State) (d i) :
    (recomputedMembers b d).slot i = if i ∈ d.members then (b.slot i).map (recomputed b i) else b.slot i := by
  unfold recomputedMembers
  show (Vector.ofFn _)[i.val] = _
  rw [Vector.getElem_ofFn]

theorem slots_ext {x y : State} (hs : ∀ i, x.slot i = y.slot i) : x.slots = y.slots := by
  apply Vector.ext; intro i hi; exact hs ⟨i, hi⟩

theorem recomputedMembers_slotsOnly (b : State) (d) : ∃ σ, recomputedMembers b d = { b with slots := σ } := ⟨_, rfl⟩

theorem SameForProbes.members {x y} (h : SameForProbes x y) (d) :
    SameForProbes (recomputedMembers x d) (recomputedMembers y d) := by
  have hs : (recomputedMembers x d).slots = (recomputedMembers y d).slots :=
    slots_ext fun i => by rw [slot_recomputedMembers, slot_recomputedMembers, h.slot i, show Machine.recomputed x i = Machine.recomputed y i from funext (h.recomputed i)]
  obtain ⟨σ, e⟩ := recomputedMembers_slotsOnly x d
  obtain ⟨τ, f⟩ := recomputedMembers_slotsOnly y d
  rw [e, f] at hs ⊢
  exact ⟨hs, h.params, h.time, h.lines, h.notices, h.alertA, h.alertB, h.zones⟩

theorem SameForProbes.same {x y} (h : SameForProbes x y) :
    SameProbesAndNotices x y := ⟨h.slots, h.notices, h.alertA, h.alertB⟩

/-- States that agree for the probes are recomputed to states that agree for the probes. -/
theorem SameForProbes.transfer {x y u : State} {d} (h : SameForProbes x y) (hr : RecomputedTo x u d) :
    ∃ v, RecomputedTo y v d ∧ SameProbesAndNotices u v := by
  obtain ⟨order, h1, h2, rfl⟩ := hr
  exact ⟨_, ⟨order, h1, fun i => (h2 i).trans (h.givenMiss d i), rfl⟩, ((h.members d).fold order).same⟩

/-! ### A miss reads and writes one slot -/

/-- Two states differ in their slots only, and agree on slot `m`. -/
def AgreeAt (m : SlotId) (x y : State) : Prop := { x with slots := y.slots } = y ∧ x.slot m = y.slot m

/-- An operation reads and writes no slot but `m`. -/
def ActsAt (m : SlotId) (F : State → State) : Prop := ∀ x y, AgreeAt m x y → AgreeAt m (F x) (F y)

theorem ActsAt.comp {m F G} (hF : ActsAt m F) (hG : ActsAt m G) :
    ActsAt m (fun s => F (G s)) := fun x y h => hF _ _ (hG x y h)

theorem AgreeAt.elim {m x y} (h : AgreeAt m x y) : ∃ σ, y = { x with slots := σ } := ⟨y.slots, h.1.symm⟩

theorem ActsAt.set {m} (r : Option Slot) : ActsAt m (State.setSlot m r) := by
  intro x y h
  obtain ⟨σ, rfl⟩ := h.elim
  exact ⟨rfl, by rw [slot_setSlot_same, slot_setSlot_same]⟩

theorem ActsAt.quiet {m} (F : State → State) (hn : ∀ y, NoticesOnly y (F y)) (h1 : ∀ y (σ : Vector (Option Slot) 96), F { y with slots := σ } = { F y with slots := σ }) :
    ActsAt m F := by
  intro x y h
  have a : (F x).slot m = (F y).slot m := by rw [(hn x).slot, (hn y).slot]; exact h.2
  have b : (F x).slots = x.slots := by
    apply slots_ext; intro i; exact (hn x).slot i
  obtain ⟨σ, rfl⟩ := h.elim
  refine ⟨?_, a⟩
  have c := h1 x σ
  rw [c]

theorem ActsAt.emit {m} (b) : ActsAt m (emit b) := ActsAt.quiet _ (emit_noticesOnly b) fun y σ => by
  unfold Machine.emit arrive; dsimp only; split
  · split <;> rfl
  · split <;> rfl

theorem ActsAt.onset {m} (b) : ActsAt m (onset b) := ActsAt.quiet _ (onset_noticesOnly b) fun _ _ => rfl

theorem AgreeAt.params {m x y} (h : AgreeAt m x y) : x.params = y.params := by rw [← h.1]

theorem AgreeAt.time {m x y} (h : AgreeAt m x y) : x.timeBase = y.timeBase := by rw [← h.1]

theorem AgreeAt.zones {m x y} (h : AgreeAt m x y) : x.zones = y.zones := by rw [← h.1]

theorem ActsAt.wlp {m t} : ActsAt m (writeLastPoll m t) := by
  intro x y h
  unfold writeLastPoll
  rw [h.2]
  split
  · exact ActsAt.set _ _ _ h
  · exact h

theorem ActsAt.tm {m o} : ActsAt m (takeMiss m o) := by
  intro x y h
  unfold takeMiss
  rw [h.2, h.params]
  split
  · exact h
  · split
    · exact (ActsAt.comp (ActsAt.onset _) (ActsAt.comp (ActsAt.emit _) (ActsAt.set _))) _ _ h
    · exact ActsAt.set _ _ _ h

theorem ActsAt.adv {m} : ActsAt m (advance m) := by
  intro x y h
  unfold advance
  rw [h.2, h.params, h.time]
  split
  · dsimp only
    split
    · rw [paceOf_zones h.zones]; exact ActsAt.set _ _ _ h
    · exact h
  · exact h

theorem ActsAt.miss {m t o} : ActsAt m (handOutcome m t (.miss o)) := (ActsAt.adv.comp (ActsAt.tm.comp ActsAt.wlp))

/-- After a miss the slot has the pace of its state and zones. -/
theorem pace_handMiss (m t o) (y : State) (r : Slot) (h : (handOutcome m t (.miss o) y).slot m = some r) (hs : r.schedulable = true) :
    r.pace = paceOf y m r := by
  unfold handOutcome advance at h
  generalize hx : takeReport m (.miss o) (writeLastPoll m t y) = x at h
  have hz : x.zones = y.zones := by
    rw [← hx]
    show (takeMiss m o _).zones = _
    unfold takeMiss
    have w : (writeLastPoll m t y).zones = y.zones := by unfold writeLastPoll; split <;> rfl
    split
    · exact w
    · split
      · have := ((emit_noticesOnly (.probeState m (by assumption : Slot).state .lost o) ((writeLastPoll m t y).setSlot m (some ((by assumption : Slot).missed o).lost))).trans (onset_noticesOnly .lostAny _))
        unfold NoticesOnly at this
        rw [← this]; exact w
      · exact w
  cases hq : x.slot m with
  | none => rw [hq] at h; dsimp only at h; rw [hq] at h; cases h
  | some q =>
    rw [hq] at h; dsimp only at h
    split at h
    · simp at h; subst h
      dsimp only
      rw [paceOf_zones hz]
      rename_i hsq
      have hh := (schedulable_iff q).mp hsq
      refine Eq.symm (Eq.trans ?_ (Eq.refl (paceOf y m q)))
      exact paceOf_state y m q _ rfl (by simp [hh])
    · rw [hq] at h; cases h; simp_all

/-! ### Members on lines in FAULT -/

/-- The state with other slots. -/
def withSlots (b : State) (σ : Vector (Option Slot) 96) : State := { b with slots := σ }

@[irreducible] def recomputedSlots (l : List SlotId) (b : State) : Vector (Option Slot) 96 := Vector.ofFn fun i => if i ∈ l then (b.slot i).map (recomputed b i) else b.slot i

/-- The state in which the slots of the list are recomputed, before any miss. -/
def recomputedOn (l : List SlotId) (b : State) : State := withSlots b (recomputedSlots l b)

theorem slot_recomputedOn (l b i) :
    (recomputedOn l b).slot i = if i ∈ l then (b.slot i).map (recomputed b i) else b.slot i := by
  show (recomputedSlots l b)[i.val] = _
  unfold recomputedSlots
  rw [Vector.getElem_ofFn]

theorem rest_recomputedOn (l b) : { recomputedOn l b with slots := b.slots } = b := rfl

theorem recomputedOn_rest (l b) : { b with slots := (recomputedOn l b).slots } = recomputedOn l b := rfl

theorem recomputedOn_fields (l b) :
    (recomputedOn l b).zones = b.zones ∧ (recomputedOn l b).params = b.params ∧ (recomputedOn l b).timeBase = b.timeBase ∧ (recomputedOn l b).lines = b.lines ∧ (recomputedOn l b).notices = b.notices ∧ (recomputedOn l b).alertA = b.alertA ∧ (recomputedOn l b).alertB = b.alertB :=
  ⟨rfl, rfl, rfl, rfl, rfl, rfl, rfl⟩

theorem line_recomputedOn (l b k) : (recomputedOn l b).line k = b.line k := rfl

/-- The recomputation of a slot on a line in FAULT gives it a miss (R138, R150). -/
def MissesAt (b : State) (i : SlotId) : Prop := onFaultLine b i = true
    ∧ ∃ r, b.slot i = some r ∧ r.state ≠ .heating ∧ r.state ≠ .held ∧ dueRewritten b i r ∧ (recomputed b i r).due = true

theorem state_ext_slots {x y : State} (h : { x with slots := y.slots } = y) (hs : ∀ i, x.slot i = y.slot i) : x = y := by
  have : x.slots = y.slots := by
    apply Vector.ext; intro i hi; exact hs ⟨i, hi⟩
  rw [← h, ← this]

/-- The recomputation of one slot of a line in FAULT. -/
theorem recompute_faulted (s : State) (m : SlotId) (hf : onFaultLine s m = true) :
   (MissesAt s m → recompute m s = missStep (recomputedOn [m] s) m) ∧ (¬MissesAt s m → recompute m s = recomputedOn [m] s) := by
  have rm : ∀ r, s.slot m = some r → s.setSlot m (some (recomputed s m r)) = recomputedOn [m] s := by
    intro r hr
    refine state_ext_slots (recomputedOn_rest [m] s) fun i => ?_
    rw [slot_recomputedOn]
    by_cases h : i = m
    · subst h; simp [hr]
    · rw [slot_setSlot_other _ _ (Ne.symm h)]; simp [h]
  unfold onFaultLine at hf
  cases hr : s.slot m with
  | none => rw [hr] at hf; cases hf
  | some r =>
    rw [hr] at hf; dsimp only at hf
    have hff : onFaultLine (recomputedOn [m] s) m = true := by
      unfold onFaultLine; rw [slot_recomputedOn]; simp only [List.mem_singleton, if_true, hr, Option.map_some]
      rw [(recomputed_state s m r).2, line_recomputedOn]; exact hf
    by_cases hs : r.schedulable = true
    · obtain ⟨e1, e2⟩ := recompute_schedulable s m r hr hs
      rw [rm r hr] at e1 e2
      by_cases hc : dueRewritten s m r
      · have hsl : (recomputedOn [m] s).slot m = some (recomputed s m r) := by rw [slot_recomputedOn]; simp [hr]
        have hsch : (recomputed s m r).schedulable = true := by rw [schedulable_iff, (recomputed_state s m r).1]; exact (schedulable_iff r).mp hs
        have hmm : missIfFaulted m (recomputedOn [m] s) = if (recomputed s m r).due = true then missStep (recomputedOn [m] s) m else recomputedOn [m] s := by
          unfold missIfFaulted; rw [hsl]; dsimp only; rw [hsch, hff]; simp; rfl
        refine ⟨fun g => ?_, fun g => ?_⟩
        · obtain ⟨_, r', hr', _, _, _, hd⟩ := g
          rw [hr] at hr'; cases hr'
          rw [e1 hc, hmm, if_pos hd]
        · rw [e1 hc, hmm, if_neg]
          intro hd
          exact g ⟨by unfold onFaultLine; rw [hr]; exact hf, r, hr, ((schedulable_iff r).mp hs).1, ((schedulable_iff r).mp hs).2, hc, hd⟩
      · have ng : ¬MissesAt s m := by
          rintro ⟨_, r', hr', _, _, h1, _⟩
          rw [hr] at hr'; cases hr'; exact hc h1
        exact ⟨fun g => absurd g ng, fun _ => e2 hc⟩
    · have ng : ¬MissesAt s m := by
        rintro ⟨_, r', hr', h1, h2, _⟩
        rw [hr] at hr'; cases hr'; exact hs ((schedulable_iff r).mpr ⟨h1, h2⟩)
      exact ⟨fun g => absurd g ng, fun _ => by rw [recompute_unschedulable s m r hr hs, rm r hr]⟩

theorem missStep_fields (x m) :
    (missStep x m).zones = x.zones ∧ (missStep x m).params = x.params ∧ (missStep x m).timeBase = x.timeBase ∧ (missStep x m).lines = x.lines := by
  have : ProbesOnly x (missStep x m) := handOutcome_probesOnly _ _ _ _
  exact ⟨this.zones, this.params, this.timeBase, this.lines⟩

theorem missesAt_congr {x y : State} (i) (hs : x.slot i = y.slot i) (hz : x.zones = y.zones) (hp : x.params = y.params) (ht : x.timeBase = y.timeBase) (hl : x.lines = y.lines) :
    MissesAt x i ↔ MissesAt y i := by
  unfold MissesAt onFaultLine State.line
  simp only [hs, hl, dueRewritten_congr (fun y => by unfold State.zone; rw [hz]) hp ht hl, recomputed_zones hz hp ht hl]

theorem not_missesAt (x : State) (i) (h : ∀ r, x.slot i = some r → r.schedulable = true → r.pace = paceOf x i r) :
    ¬MissesAt x i := by
  rintro ⟨_, r, hr, h1, h2, h3, _⟩
  exact not_dueRewritten x i r (h r hr ((schedulable_iff r).mpr ⟨h1, h2⟩)) h3

/-- Recomputing slots of lines in FAULT one by one is recomputing all of them and then giving the misses, in the same order. -/
theorem foldl_recompute_faulted (l : List SlotId) (v : State) (hf : ∀ m ∈ l, onFaultLine v m = true) :
   ∃ order : List SlotId, order.Nodup ∧ (∀ i, i ∈ order ↔ i ∈ l ∧ MissesAt v i) ∧ l.foldl (fun s m => recompute m s) v = order.foldl missStep (recomputedOn l v) := by
  induction l generalizing v with
  | nil => exact ⟨[], List.nodup_nil, by simp, by
      simp only [List.foldl_nil]; exact state_ext_slots (recomputedOn_rest [] v) fun i => by rw [slot_recomputedOn]; simp⟩
  | cons m l ih =>
    rw [List.foldl_cons]
    have hst := linesStay_recompute m v
    have hv1 := recompute_faulted v m (hf m (by simp))
    generalize hx : recomputedOn [m] v = x at hv1
    have xs : ∀ i, x.slot i = if i = m then (v.slot i).map (recomputed v i) else v.slot i := by intro i; rw [← hx, slot_recomputedOn]; simp
    have xr : { x with slots := v.slots } = v := by rw [← hx]; exact rest_recomputedOn [m] v
    have xz : x.zones = v.zones ∧ x.params = v.params ∧ x.timeBase = v.timeBase ∧ x.lines = v.lines := by rw [← xr]; exact ⟨rfl, rfl, rfl, rfl⟩
    have xm : ∀ r, x.slot m = some r → r.schedulable = true → r.pace = paceOf x m r := by
      intro r hr hsch
      rw [xs, if_pos rfl] at hr
      cases hq : v.slot m with
      | none => rw [hq] at hr; cases hr
      | some q => 
        rw [hq] at hr; simp at hr; subst hr
        rw [paceOf_zones xz.1]; exact recomputed_pace v m q hsch
    have xR : recomputedOn l x = recomputedOn (m :: l) v := by
      refine state_ext_slots (by rw [← hx]; rfl) fun i => ?_
      rw [slot_recomputedOn, slot_recomputedOn, xs, show recomputed x i = recomputed v i from funext (recomputed_zones xz.1 xz.2.1 xz.2.2.1 xz.2.2.2 i)]
      by_cases h1 : i = m
      · subst h1
        by_cases h2 : i ∈ l
        · simp only [if_pos h2, List.mem_cons, true_or, if_true]
          cases v.slot i <;> simp [recomputed_idem]
        · simp [h2]
      · simp [h1]
    by_cases g : MissesAt v m
    · have e := hv1.1 g
      rw [e] at hst
      have ml := missStep_fields x m
      generalize hw : missStep x m = w at *
      have wo : ∀ i, i ≠ m → w.slot i = x.slot i := by
        intro i hi; rw [← hw]; exact onlySlot_handMiss m _ _ x i hi
      have wm : ∀ r, w.slot m = some r → r.schedulable = true → r.pace = paceOf w m r := by
        intro r hr hsch
        rw [← hw] at hr
        rw [paceOf_zones ml.1]
        exact pace_handMiss m _ _ x r hr hsch
      obtain ⟨order, o1, o2, o3⟩ := ih w (fun k hk => by
        rw [onFaultLine_congr hst (by rw [ml.2.2.2, xz.2.2.2])]; exact hf k (by simp [hk]))
      have nm : m ∉ order := fun h => not_missesAt w m wm ((o2 m).mp h).2
      refine ⟨m :: order, List.nodup_cons.mpr ⟨nm, o1⟩, ?_, ?_⟩
      · intro i
        by_cases h1 : i = m
        · subst h1; simp [g]
        · rw [List.mem_cons, o2 i, List.mem_cons]
          have : MissesAt w i ↔ MissesAt v i := missesAt_congr i (by rw [wo i h1, xs, if_neg h1]) (by rw [ml.1, xz.1]) (by rw [ml.2.1, xz.2.1]) (by rw [ml.2.2.1, xz.2.2.1]) (by rw [ml.2.2.2, xz.2.2.2])
          rw [this]; simp [h1]
      · rw [e, o3, List.foldl_cons, ← xR]
        congr 1
        -- recomputedOn l (miss m x) = miss m (recomputedOn l x)
        have hRm : AgreeAt m x (recomputedOn l x) := by
          refine ⟨recomputedOn_rest l x, ?_⟩
          rw [slot_recomputedOn]; split
          · cases hq : x.slot m with
            | none => rfl
            | some q => rw [Option.map_some, recomputed_fix x m q (fun hs => xm q hq hs)]
          · rfl
        obtain ⟨k1, k2⟩ := (ActsAt.miss (t := x.timeBase) (o := .lineFault)) _ _ hRm
        have k3 := onlySlot_handMiss m x.timeBase .lineFault (recomputedOn l x)
        have tm : missStep (recomputedOn l x) m = handOutcome m x.timeBase (.miss .lineFault) (recomputedOn l x) := by unfold missStep; rw [(recomputedOn_fields l x).2.2.1]
        rw [tm]
        generalize handOutcome m x.timeBase (.miss .lineFault) (recomputedOn l x) = y at *
        have hw' : handOutcome m x.timeBase (.miss .lineFault) x = w := hw
        rw [hw'] at k1 k2
        refine state_ext_slots (by rw [← recomputedOn_rest l w, ← k1]) fun i => ?_
        rw [slot_recomputedOn]
        by_cases h1 : i = m
        · subst h1
          rw [← k2]
          split
          · cases hq : w.slot i with
            | none => rfl
            | some q => rw [Option.map_some, recomputed_fix w i q (fun hs => wm q hq hs)]
          · rfl
        · rw [k3 i h1, slot_recomputedOn, wo i h1, show recomputed w i = recomputed x i from funext (recomputed_zones ml.1 ml.2.1 ml.2.2.1 ml.2.2.2 i)]
    · have e := hv1.2 g
      rw [e] at hst
      obtain ⟨order, o1, o2, o3⟩ := ih x (fun k hk => by
        rw [onFaultLine_congr hst xz.2.2.2]; exact hf k (by simp [hk]))
      refine ⟨order, o1, ?_, ?_⟩
      · intro i
        rw [o2 i, List.mem_cons]
        by_cases h1 : i = m
        · subst h1
          exact ⟨fun h => absurd h.2 (not_missesAt x i xm), fun h => absurd h.2 g⟩
        · have : MissesAt x i ↔ MissesAt v i := missesAt_congr i (by rw [xs, if_neg h1]) xz.1 xz.2.1 xz.2.2.1 xz.2.2.2
          rw [this]; simp [h1]
      · rw [e, o3, xR]

/-! ### What the recomputation of members does -/

/-- Recomputing the members of a definition gives the slots, notices and alert lines that R138 and R150 say, in some order of
the misses. -/
theorem recomputeMembers_recomputedTo (w : State) (d : ZoneDef) :
    ∃ u, RecomputedTo w u d ∧ SameProbesAndNotices (recomputeMembers d.members w) u := by
  unfold recomputeMembers
  obtain ⟨h1, h2, h3⟩ := foldl_recompute_unfaulted (d.members.filter fun m => !onFaultLine w m) w (fun m hm => by simp at hm; exact hm.2)
  generalize (d.members.filter fun m => !onFaultLine w m).foldl (fun s m => recompute m s) w = v at *
  have vz : v.zones = w.zones ∧ v.params = w.params ∧ v.timeBase = w.timeBase ∧ v.lines = w.lines := by rw [h3]; exact ⟨rfl, rfl, rfl, rfl⟩
  have key : ∀ (l : List SlotId), (∀ i, i ∈ l ↔ i ∈ d.members.filter fun m => onFaultLine w m) → ∀ c, ∃ u, RecomputedTo w u d ∧ SameProbesAndNotices (l.foldl (fun s m => recompute m s) { v with freeCount := c }) u := by
    intro l hl c
    have vs : ∀ i, onFaultLine w i = true → v.slot i = w.slot i := fun i hi => h1 i (by simp [hi])
    have gs : ∀ i, onFaultLine w i = true → (MissesAt { v with freeCount := c } i ↔ MissesAt w i) := fun i hi => missesAt_congr i (vs i hi) vz.1 vz.2.1 vz.2.2.1 vz.2.2.2
    obtain ⟨order, o1, o2, o3⟩ := foldl_recompute_faulted l { v with freeCount := c } (fun m hm => by
      have := (hl m).mp hm; simp at this
      have hv : v.slot m = w.slot m := vs m this.2
      have hv' : State.slot { v with freeCount := c } m = w.slot m := hv
      have hl' : ∀ k, State.line { v with freeCount := c } k = w.line k := fun k => congrArg (fun x => Vector.get x k) vz.2.2.2
      have : onFaultLine { v with freeCount := c } m = onFaultLine w m := by simp only [onFaultLine, hv', hl']
      rw [this]; exact ((List.mem_filter.mp ((hl m).mp hm)).2))
    refine ⟨_, ⟨order, o1, fun i => ?_, rfl⟩, ?_⟩
    · rw [o2 i, hl i]
      unfold givenMiss
      constructor
      · rintro ⟨a, b⟩
        simp at a
        obtain ⟨b1, b2⟩ := (gs i a.2).mp b
        exact ⟨a.1, b1, b2⟩
      · rintro ⟨a, b, c'⟩
        exact ⟨by simp [a, b], (gs i b).mpr ⟨b, c'⟩⟩
    · have S : ∀ j, (if j ∈ l then Option.map (recomputed { v with freeCount := c } j) (State.slot { v with freeCount := c } j) else State.slot { v with freeCount := c } j) = if j ∈ d.members then (w.slot j).map (recomputed w j) else w.slot j := by
        intro j
        have rc : recomputed { v with freeCount := c } j = recomputed w j := funext (recomputed_zones (s := w) (u := { v with freeCount := c }) vz.1 vz.2.1 vz.2.2.1 vz.2.2.2 j)
        rw [rc]
        have sv : State.slot { v with freeCount := c } j = v.slot j := rfl
        rw [sv]
        by_cases hm : j ∈ d.members
        · rw [if_pos hm]
          cases hfj : onFaultLine w j with
          | true => rw [if_pos ((hl j).mpr (by simp [hm, hfj])), vs j hfj]
          | false => rw [if_neg (fun h => by have := (hl j).mp h; simp [hfj] at this), h2 j (by simp [hm, hfj])]
        · rw [if_neg hm, if_neg (fun h => by have := (hl j).mp h; simp [hm] at this), h1 j (by simp [hm])]
      rw [o3]
      refine (SameForProbes.fold ?_ order).same
      obtain ⟨f1, f2, f3, f4, f5, f6, f7⟩ := recomputedOn_fields l { v with freeCount := c }
      have e5 : v.notices = w.notices := by rw [h3]
      have e6 : v.alertA = w.alertA := by rw [h3]
      have e7 : v.alertB = w.alertB := by rw [h3]
      have hs : (recomputedOn l { v with freeCount := c }).slots = (recomputedMembers w d).slots := slots_ext fun j => by
        rw [slot_recomputedOn, slot_recomputedMembers]
        exact S j
      obtain ⟨σ, e⟩ := recomputedMembers_slotsOnly w d
      rw [e] at hs ⊢
      exact ⟨hs, f2.trans vz.2.1, f3.trans vz.2.2.1, f4.trans vz.2.2.2, f5.trans e5, f6.trans e6, f7.trans e7, fun z => by
        unfold State.zone; rw [f1]; show paceKey (v.zones.get z) = paceKey (w.zones.get z); rw [vz.1]⟩
  unfold inFreeOrder
  split
  · exact key _ (fun _ => Iff.rfl) v.freeCount
  · exact key _ (fun i => (freeOrder_perm _ _).mem_iff) (v.freeCount + 1)

theorem SameProbesAndNotices.trans {x y z} (h : SameProbesAndNotices x y) (k : SameProbesAndNotices y z) :
    SameProbesAndNotices x z :=
  ⟨h.1.trans k.1, h.2.1.trans k.2.1, h.2.2.1.trans k.2.2.1, h.2.2.2.trans k.2.2.2⟩

/-- The same from another state that agrees for the probes. -/
theorem recomputedTo_of_same {w t b : State} (d) (h : SameForProbes w b) (ht : SameProbesAndNotices t (recomputeMembers d.members w)) :
    ∃ u, RecomputedTo b u d ∧ SameProbesAndNotices t u := by
  obtain ⟨u, h1, h2⟩ := recomputeMembers_recomputedTo w d
  obtain ⟨v, h3, h4⟩ := h.transfer h1
  exact ⟨v, h3, ht.trans (h2.trans h4)⟩

end Sys2Proof.Machine
end

