-- ==== Sys2Proof/Laws/Outcome.lean ====
section
/-! SUPPORT. What the taking of an outcome leaves of its slot (R134, R138, R148): whatever the report, the slot is an advanced slot with the last poll time handed on and its line. -/

namespace Sys2Proof.Machine

/-- The slot is enrolled on the line, and its last poll time is the one given. -/
def PolledOn (at' : Time) (l : LineId) (i : SlotId) (s : State) : Prop :=
  ∃ x, s.slot i = some x ∧ x.lastPoll = at' ∧ x.line = l

theorem PolledOn.set {a l i} {s : State} {x : Slot} (h1 : x.lastPoll = a) (h2 : x.line = l) :
    PolledOn a l i (s.setSlot i (some x)) := ⟨x, by simp, h1, h2⟩

theorem PolledOn.emit {a l i s} (b) (h : PolledOn a l i s) : PolledOn a l i (emit b s) := by
  obtain ⟨x, h, k⟩ := h; exact ⟨x, by rw [(emit_noticesOnly b s).slot]; exact h, k⟩

theorem PolledOn.onset {a l i s} (b) (h : PolledOn a l i s) : PolledOn a l i (onset b s) := by
  obtain ⟨x, h, k⟩ := h; exact ⟨x, by rw [(onset_noticesOnly b s).slot]; exact h, k⟩

theorem PolledOn.takeMiss {a l i s} (o) (h : PolledOn a l i s) : PolledOn a l i (takeMiss i o s) := by
  obtain ⟨x, h, k1, k2⟩ := h
  unfold Machine.takeMiss; rw [h]; dsimp only
  split
  · exact .onset _ (.emit _ (.set k1 k2))
  · exact .set k1 k2

theorem PolledOn.heaterSees {a l i s} (o) (h : PolledOn a l i s) : PolledOn a l i (heaterSees i o s) := by
  obtain ⟨x, h, k1, k2⟩ := h
  unfold Machine.heaterSees; rw [h]; dsimp only
  split
  · split
    · unfold tryArm; split
      · exact .set k1 k2
      · split
        · exact .set k1 k2
        · exact .emit _ (.set k1 k2)
    · exact .set k1 k2
  · exact .set k1 k2

theorem PolledOn.noteChange {a l i s} (old new) (h : PolledOn a l i s) : PolledOn a l i (noteChange i old new s) := by
  unfold Machine.noteChange; split
  · exact h
  · exact .emit _ h

/-- No report moves a slot to another line or writes its last poll time. -/
theorem PolledOn.takeReport {a l i s} (rep) (h : PolledOn a l i s) : PolledOn a l i (takeReport i rep s) := by
  cases rep with
  | miss o => exact h.takeMiss o
  | goodHeat =>
    obtain ⟨x, h, k1, k2⟩ := h
    show PolledOn _ _ _ (takeGoodHeat i s)
    unfold takeGoodHeat; rw [h]; dsimp only; split
    · exact .set k1 k2
    · exact .emit _ (.set k1 k2)
  | goodRead c rc =>
    obtain ⟨x, h, k1, k2⟩ := h
    show PolledOn _ _ _ (takeGoodRead i c rc s)
    unfold takeGoodRead; rw [h]; dsimp only; split
    · unfold acceptReading; dsimp only
      split
      · split
        · exact .heaterSees _ (.noteChange _ _ (.set k1 k2))
        · exact .noteChange _ _ (.set k1 k2)
      · exact .noteChange _ _ (.set k1 k2)
    · exact .takeMiss _ ⟨x, h, k1, k2⟩

/-- What `advance` leaves of an enrolled slot (R148). -/
theorem slot_advance {i x} {s : State} (hx : s.slot i = some x) : (advance i s).slot i = some (advanced s i x) := by
  unfold advance advanced; rw [hx]; dsimp only
  by_cases hs : x.schedulable = true
  · rw [if_pos hs, if_neg (not_heating_or_held hs)]
    simp
    cases paceOf s i x <;> simp [Slot.withNextDue, liesAhead, Params.ticksOf, age]
  · rw [if_neg hs, if_pos]
    · exact hx
    · refine Classical.byContradiction fun h => hs ((schedulable_iff x).mpr ?_)
      simpa using h

/-- Advancing reads the zones, the parameters and the time base only. -/
theorem advanced_congr {s t : State} (hz : t.zones = s.zones) (hp : t.params = s.params) (ht : t.timeBase = s.timeBase) (i x) :
    advanced t i x = advanced s i x := by
  unfold advanced; rw [paceOf_zones hz, hp, ht]

/-- What an outcome leaves of its slot, whatever the report: it is advanced, with the last poll time handed on and on its line. -/
theorem slot_handOutcome {i at' rep} {s : State} {r : Slot} (hr : s.slot i = some r) :
    ∃ x, x.lastPoll = at' ∧ x.line = r.line ∧ (handOutcome i at' rep s).slot i = some (advanced s i x) := by
  have hw : PolledOn at' r.line i (writeLastPoll i at' s) := by unfold writeLastPoll; rw [hr]; exact .set rfl rfl
  obtain ⟨x, hx, k1, k2⟩ := hw.takeReport rep
  have hp : ProbesOnly s (takeReport i rep (writeLastPoll i at' s)) :=
    (writeLastPoll_probesOnly _ _ _).trans (takeReport_probesOnly _ _ _)
  exact ⟨x, k1, k2, by
    unfold handOutcome; rw [slot_advance hx, advanced_congr hp.zones hp.params hp.timeBase]⟩

end Sys2Proof.Machine
end

