-- ==== Sys2Proof/Laws/Records.lean ====
section
/-! SUPPORT. Records and frames: what a frame filled with whole records holds, what remains after records are skipped, and the first index that a search finds. -/

namespace Sys2Proof.Machine

/-- A frame that takes the first `n` records and has no room for another holds exactly their bytes. -/
theorem fillFrame_eq (room n : Nat) (recs : List (List Byte)) (body : List Byte) (k : Nat) (h1 : n ≤ recs.length)
   (h2 : (body ++ (recs.take n).flatten).length ≤ 64) (h3 : (body ++ (recs.take n).flatten).length ≤ room)
   (h4 : n < recs.length → 64 < (body ++ (recs.take (n + 1)).flatten).length ∨ room < (body ++ (recs.take (n + 1)).flatten).length) :
   fillFrame room body k recs =
      { body := body ++ (recs.take n).flatten, count := k + n
        closed := if recs.length ≤ n then .exhausted else if 64 < (body ++ (recs.take (n+1)).flatten).length then .frameFull else .noRoom } := by
  induction recs generalizing body k n with
  | nil => simp at h1; subst h1; simp [fillFrame]
  | cons r rest ih =>
    cases n with
    | zero =>
      have := h4 (by simp)
      simp at this
      unfold fillFrame
      simp
      split
      · rfl
      · rw [if_pos (by omega)]
    | succ m =>
      have e1 : ∀ l : List Byte, (body ++ (r ++ l)).length = (body ++ r ++ l).length := by simp
      simp only [List.take_succ_cons, List.flatten_cons, e1, List.length_cons] at h1 h2 h3 h4 ⊢
      have l1 : body.length + r.length ≤ (body ++ r ++ (List.take m rest).flatten).length := by
        rw [List.length_append, List.length_append]; omega
      unfold fillFrame
      rw [if_neg (by omega), if_neg (by omega)]
      rw [ih m (body ++ r) (k+1) (by omega) h2 h3 (by intro hm; exact h4 (by omega))]
      have e2 : (rest.length ≤ m) ↔ (rest.length + 1 ≤ m + 1) := by omega
      simp only [e2, List.append_assoc]
      congr 1
      omega

/-- Of elements numbered from `c` on, those numbered `a` to `b - 1`. -/
theorem filter_eq_drop_take {α : Type} (f : α → Nat) (l : List α) (c a b : Nat) (h : l.map f = List.range' c l.length) :
   l.filter (fun x => a ≤ f x && f x < b) = (l.take (b - c)).drop (a - c) := by
  induction l generalizing c with
  | nil => simp
  | cons x xs ih =>
    simp only [List.map_cons, List.length_cons, List.range'_succ, List.cons.injEq] at h
    rw [List.filter_cons, ih (c+1) h.2, h.1]
    by_cases hb : b ≤ c
    · have : b - c = 0 := by omega
      have : b - (c+1) = 0 := by omega
      simp [*]
    · obtain ⟨k, hk⟩ : ∃ k, b - c = k + 1 := ⟨b - c - 1, by omega⟩
      have hk' : b - (c+1) = k := by omega
      rw [hk, hk', List.take_succ_cons]
      by_cases ha : a ≤ c
      · have e1 : a - c = 0 := by omega
        have e2 : a - (c+1) = 0 := by omega
        rw [if_pos (by simp; omega), e1, e2]; simp
      · obtain ⟨j, hj⟩ : ∃ j, a - c = j + 1 := ⟨a - c - 1, by omega⟩
        have hj' : a - (c+1) = j := by omega
        rw [if_neg (by simp; omega), hj, hj']; simp

/-- The indices from `a` to `b - 1`. -/
theorem finRange_filter (N a b : Nat) : (List.finRange N).filter (fun i => a ≤ i.val && i.val < b) = ((List.finRange N).take b).drop a := by
  have := filter_eq_drop_take (fun i : Fin N => i.val) (List.finRange N) 0 a b (by
    apply List.ext_getElem <;> simp)
  simpa using this

/-- Skipping `n` records leaves the records after them. -/
theorem remainingRecords_skip (s : State) (src : RecordSource) (hs : src ≠ .notices) (n : Nat) (hn : n ≠ 0) :
    remainingRecords s (src.skip n) = (remainingRecords s src).drop n := by
  cases src with
  | identity sent =>
    cases sent <;> simp [remainingRecords, RecordSource.skip, hn]
    omega
  | status next => simp [remainingRecords, RecordSource.skip]
  | probes a b => simp only [remainingRecords, RecordSource.skip]; rw [finRange_filter, finRange_filter, ← List.map_drop, List.drop_drop]
  | zones a b => simp only [remainingRecords, RecordSource.skip]; rw [finRange_filter, finRange_filter, ← List.map_drop, List.drop_drop]
  | entries k a b => simp only [remainingRecords, RecordSource.skip]; rw [← List.map_drop, List.drop_drop]
  | notices => exact absurd rfl hs

/-- A search over all indices finds the least that the test accepts. -/
theorem find_finRange {N : Nat} (p : Fin N → Bool) (j : Fin N) (hj : p j = true) (hm : ∀ k < j, p k = false) : (List.finRange N).find? p = some j := by
  rw [List.find?_eq_some_iff_append]
  refine ⟨hj, (List.finRange N).take j.val, (List.finRange N).drop (j.val+1), ?_, ?_⟩
  · have h : j.val < (List.finRange N).length := by simp
    have h2 := List.drop_eq_getElem_cons h
    rw [List.getElem_finRange] at h2
    have : (Fin.cast (List.length_finRange) ⟨j.val, h⟩ : Fin N) = j := rfl
    rw [this] at h2
    rw [← h2, List.take_append_drop]
  · intro x hx
    rw [List.mem_iff_getElem] at hx
    obtain ⟨n, hn, rfl⟩ := hx
    simp at hn
    rw [hm]; rfl
    simp [Fin.lt_def]; omega

end Sys2Proof.Machine
end

