-- ==== Sys2Proof/Laws/Wire.lean ====
section
/-! SUPPORT. The characters of the station link: a byte's character reads back as the byte, and receiving it is receiving the byte. -/

namespace Sys2Proof.Machine

@[simp] theorem characterValue_linkCharacter (b : Byte) : characterValue (linkCharacter b) = b := by
  simp [characterValue, linkCharacter]

@[simp] theorem hasFramingError_linkCharacter (b : Byte) : hasFramingError (linkCharacter b) = false := by
  simp [hasFramingError, linkCharacter, BitVec.getLsbD_cons]

@[simp] theorem length_linkLevels (c : LinkCharacter) : (linkLevels c).length = 10 := by simp [linkLevels]

/-- A well-formed character is received as its byte. -/
@[simp] theorem receiveLinkCharacter_linkCharacter (s : State) (b : Byte) :
    receiveLinkCharacter s (linkCharacter b) = receiveByte s b := by simp [receiveLinkCharacter]

/-- Well-formed characters are received as their bytes. -/
theorem receive_linkCharacters (s : State) (bytes : List Byte) :
    (bytes.map linkCharacter).foldl receiveLinkCharacter s = bytes.foldl receiveByte s := by
  simp [List.foldl_map]

end Sys2Proof.Machine
end

