-- ==== Sys2Proof/Tests/Slice0.lean ====
section
/-! SUPPORT. Tests: the well-formedness smoke test, one or two small tests per command on small states, the manual's worked values, and for every statement with hypotheses a state and operands that meet them. -/

namespace Sys2Proof.Tests

set_option Elab.async false

open Sys2Proof.Machine

/-! ### Small states -/

/-- The state after a command. -/
def after (c : Instr) (s : State) : State :=
  match exec c s with
  | .next t => t
  | .fault _ | .refused _ => s

/-- The body of the result in transmission: operation, outcome, reason, residue, fields (R186). -/
def resultAfter (c : Instr) (s : State) : Option (List Byte) := (after c s).link.result.map OutFrame.body

def air (a : Nat) : Slot :=
  { state := .live, line := 0, address := a, kind := .air, cls := .c16, rule := .zero, tempOffset := 0, rhOffset := 0
    reading := some { temp := 2400, rh := some 5000, stamp := 0 }, misses := 0, lastOutcome := .good
    nextDue := 50, lastPoll := 0, pace := .fast, due := false, advancedAt := none, run := 0, armed := none, deferred := false, heatEnd := none }

def surface (a : Nat) : Slot :=
  { air a with kind := .surface, reading := some { temp := 1500, rh := none, stamp := 0 } }

def defn : ZoneDef :=
  { watch := 300, alert := 150, hyst := 30, nin := 1, nout := 2, air := [0], surface := [1] }

def zone : Zone :=
  { state := .level .clear, defn := defn, riseCount := 0, floor := none, fallCount := 0, ceiling := none
    latest := some { stamp := 0, bank := .rom, rangeMark := false
                     values := some { dewPoint := 1286, coldest := 1500, margin := 214, airSlot := 0, surfaceSlot := 1 } }
    expiry := some 0, dueMark := false }

/-- Air slot 0 and surface slot 1 are LIVE on line 0, which is OFF. -/
def twoSlots : State := (State.reset.setSlot 0 (some (air 1))).setSlot 1 (some (surface 2))

/-- Zone 0 watches slots 0 and 1, and its timer has expired. -/
def oneZone : State := twoSlots.setZone 0 (some zone)

/-- Zone 0 is under evaluation. -/
def evaluating : State :=
  { oneZone.setZone 0 (some { zone with expiry := none }) with current := some (startedFor oneZone 0 defn) }

def withLine (l : Line) (s : State) : State := s.setLine 0 l

def idleLine : Line := { Line.reset false with state := .idle }

def txn (p : Phase) : Txn :=
  { slot := 0, command := .read, address := 1, expected := 4, cls := .c16, pollStart := 0, phase := p, orphan := false
    received := [], framingWait := false }

def busyLine (p : Phase) : Line :=
  { idleLine with state := .busy (txn p), lastServed := some 0, driveEnable := p == .sending }

/-- Line 0 is in FAULT. -/
def faultLine : Line := { Line.reset true with state := .fault }

def entry (t : Int) (p : Nat) : Entry := { temp := t, pressure := p }

/-- A bank of two entries in a state. -/
def bankIn (st : BankState) : Bank :=
  { state := st
    contents := some { declared := 2, entries := [entry 0 611, entry 100 657], partialTemp := none
                       check1 := 0x1234, check2 := 0xFFFF } }

/-- Bank A is LOADING, for two entries, and its first temperature has come. -/
def loadingTables : Tables :=
  { Tables.reset with
    a := { state := .loading
           contents := some { declared := 2, entries := [], partialTemp := some 0, check1 := 0x1D0F, check2 := 0xFFFF } }
    cursor := some { bank := .a, entry := 0, position := .pressure } }

def exchange (e : Nat) : Exchange := exchangeOf 7 0x41 e

/-- A load of four bytes is receiving. -/
def receiving : State :=
  { State.reset with
    tables := loadingTables
    link := { State.reset.link with state := .receiving, exchange := some (exchange 4) } }

/-- IDENTIFY's frame is in transmission. -/
def sending : State :=
  { State.reset with link := { State.reset.link with
      state := .sending, exchange := some { exchangeOf 7 0x01 10 with source := some (.identity true) }
      dataFrame := some { tag := 7, body := identityRecord } } }

/-- A result is in transmission. -/
def resulting : State :=
  { State.reset with link := { State.reset.link with
      exchange := some (exchangeOf 7 0x04 0), result := some { tag := 7, body := [4, 0, 0, 0, 0] } } }

def notice : Notice := { stamp := 0, body := .tableSwap .a .rom }

def fullQueue : State := { State.reset with notices := { queue := List.replicate 128 notice, overflow := false, carried := 1 } }

/-! ### Well-formedness: each check refuses an ill-formed command -/

theorem test_wellFormed_good : (Instr.identify 0 10 []).wellFormed = true ∧ (Instr.dataFrame 0 (List.replicate 64 0)).wellFormed = true
    ∧ (Instr.badOpRequest 0 [0x06, 0, 0]).wellFormed = true ∧ (Instr.frameDiscarded 0x03 0 []).wellFormed = true
    ∧ (Instr.damagedFrame (.oversizeLength 65)).wellFormed = true := by decide

theorem test_wellFormed_params : (Instr.zoneDefine 0 0 (List.replicate 62 0)).wellFormed = false := by decide
theorem test_wellFormed_badOp_known : (Instr.badOpRequest 0 [0x01, 0, 0]).wellFormed = false := by decide
theorem test_wellFormed_badOp_long : (Instr.badOpRequest 0 (List.replicate 65 0)).wellFormed = false := by decide
theorem test_wellFormed_data : (Instr.dataFrame 0 (List.replicate 65 0)).wellFormed = false := by decide
theorem test_wellFormed_discarded_long : (Instr.frameDiscarded 0x03 0 (List.replicate 65 0)).wellFormed = false := by decide
theorem test_wellFormed_discarded_request : (Instr.frameDiscarded 0x01 0 []).wellFormed = false := by decide
theorem test_wellFormed_damage_crc : (Instr.damagedFrame (.badCrc 1 0 (List.replicate 65 0) 0)).wellFormed = false := by decide
theorem test_wellFormed_damage_length : (Instr.damagedFrame (.oversizeLength 64)).wellFormed = false := by decide
theorem test_wellFormed_receiving : (Instr.requestAbandonsReceiving 0 (List.replicate 65 0)).wellFormed = false := by decide
theorem test_wellFormed_sending : (Instr.requestAbandonsSending 0 (List.replicate 65 0)).wellFormed = false := by decide
theorem test_wellFormed_leadByte : (Instr.leadByte []).wellFormed = false := by decide
theorem test_wellFormed_waiting : (Instr.waitingRequest 0 (List.replicate 65 0)).wellFormed = false := by decide

/-! ### The words of the table -/

/-- No row of the table gives bits, so no word spells a command. -/
theorem test_decodeTableWord : decodeTableWord 0 0 = none ∧ decodeTableWord 8 1 = none := by decide

theorem test_op_codes : Op.ofCode 0x05 = some .restart ∧ Op.ofCode 0x28 = some .heatProbe ∧ Op.ofCode 0x44 = some .tableRead
    ∧ Op.ofCode 0x52 = some .clearAlert ∧ Op.ofCode 0x06 = none ∧ Op.ofCode 0x00 = none := by decide

theorem test_codes_are_read : kindOfCode 1 = some .surface ∧ classOfCode 1 = some .c12 ∧ wideningOfCode 2 = some .repeatTop
    ∧ rateOfCode 4 = some .r19200 ∧ rateOfCode 5 = none ∧ orderOfCode 1 = some .msbFirst ∧ bankOfCode 2 = some .b
    ∧ bankOfCode 3 = none ∧ alertModeOfCode 1 = some .latched ∧ paramOfCode 13 = some .policy ∧ paramOfCode 14 = none
    ∧ paramOfCode 0 = none := by decide

/-! ### Requests -/

theorem test_identify : (after (.identify 7 10 []) State.reset).link.dataFrame
    = some { tag := 7, body := [0x5A, 0x2F, 0x96, 0x24, 0x01, 96, 24, 4, 64, 128] } := by decide +kernel
theorem test_identify_truncated : resultAfter (.identify 7 9 []) State.reset = some [1, 1, 0, 9, 0] := by decide +kernel
theorem test_readStatus : ((after (.readStatus 7 57 []) State.reset).link.dataFrame.map fun f => f.body.length) = some 57 := by
  decide +kernel
theorem test_paramSet : resultAfter (.paramSet 7 0 [2, 0x2C, 0x01]) State.reset = some [3, 0, 0, 0, 0, 2, 0x2C, 0x01]
    ∧ resultAfter (.paramSet 7 0 [2, 0x2D, 0x01]) State.reset = some [3, 7, 2, 0, 0] := by decide +kernel
theorem test_paramGet : resultAfter (.paramGet 7 0 [1]) State.reset = some [4, 0, 0, 0, 0, 1, 0x2C, 0x01] := by decide +kernel
theorem test_restart : (after (.restart 7 0 []) State.reset).link.restartPending = true
    ∧ resultAfter (.restart 7 0 [0]) State.reset = some [5, 7, 2, 0, 0] := by decide +kernel
theorem test_lineSetup : ((after (.lineSetup 7 0 [3, 4, 1, 250, 0xE8, 0x03]) State.reset).line 3)
    = { idleLine with rate := .r19200, order := .msbFirst, replyTimeout := 250, faultTime := 1000 } := by decide +kernel
theorem test_lineStop : ((after (.lineStop 7 0 [0]) (withLine (busyLine .sending) twoSlots)).line 0)
    = { Line.reset false with lastServed := some 0 } := by decide +kernel
theorem test_probeEnrol : ((after (.probeEnrol 7 0 [5, 2, 62, 0, 1, 3, 0x0C, 0xFE, 0xE8, 0x03]) State.reset).slot 5)
    = some { air 62 with state := .pending, line := 2, cls := .c12, rule := .mid, tempOffset := -500, rhOffset := 1000
                         reading := none, lastOutcome := .none, nextDue := 0, due := true } := by decide +kernel
theorem test_probeWithdraw : (after (.probeWithdraw 7 0 [1]) twoSlots).slot 1 = none
    ∧ resultAfter (.probeWithdraw 7 0 [1]) oneZone = some [0x21, 7, 5, 0, 0, 0] := by decide +kernel
theorem test_probeHold : ((after (.probeHold 7 0 [0]) twoSlots).slot 0).map Slot.state = some .held := by decide +kernel
theorem test_probeRelease : ((after (.probeRelease 7 0 [0]) (twoSlots.setSlot 0 (some { air 1 with state := .held }))).slot 0)
    = some { air 1 with state := .pending, nextDue := 0, due := true } := by decide +kernel
theorem test_readProbes : ((after (.readProbes 7 4096 [0, 255]) twoSlots).link.dataFrame.map fun f => f.body.length) = some 35 := by
  decide +kernel
theorem test_heatProbe : ((after (.heatProbe 7 0 [0]) twoSlots).slot 0).bind Slot.armed = some .forced := by decide +kernel
theorem test_zoneDefine : (after (.zoneDefine 7 0 [23, 0x2C, 1, 150, 0, 30, 1, 2, 1, 0, 1, 1]) twoSlots).zone 23
    = some { zone with state := .blind, latest := none, expiry := none } := by decide +kernel
theorem test_zoneClose : (after (.zoneClose 7 0 [0]) oneZone).zone 0 = none := by decide +kernel
theorem test_readZones : ((after (.readZones 7 4096 [0, 1]) oneZone).link.dataFrame.map fun f => f.body.length) = some 47 := by
  decide +kernel
theorem test_tableBegin : (after (.tableBegin 7 0 [1, 64]) State.reset).tables.cursor
    = some { bank := .a, entry := 0, position := .temperature } := by decide +kernel
theorem test_tableLoad : (after (.tableLoad 7 4 []) { State.reset with tables := loadingTables }).link.state = .receiving
    ∧ resultAfter (.tableLoad 7 4 []) State.reset = some [0x41, 7, 14, 4, 0] := by decide +kernel
theorem test_tableCommit :
    (after (.tableCommit 7 0 [2, 0x34, 0x12, 0xFF, 0xFF]) { State.reset with tables := { Tables.reset with b := bankIn .loaded } }).tables
      = { Tables.reset with rom := .standby, b := bankIn .active } := by decide +kernel
theorem test_tableSelect : resultAfter (.tableSelect 7 0 [1]) State.reset = some [0x43, 7, 16, 0, 0]
    ∧ resultAfter (.tableSelect 7 0 [0]) State.reset = some [0x43, 0, 0, 0, 0, 4] := by decide +kernel
theorem test_tableRead : (after (.tableRead 7 5 [0, 0, 1]) State.reset).link.dataFrame
    = some { tag := 7, body := [0, 0x18, 0xFC, 0x1F, 0x01] } := by decide +kernel
theorem test_fetchNotices : resultAfter (.fetchNotices 7 64 []) State.reset = some [0x50, 0, 0, 64, 0, 0, 0]
    ∧ (after (.fetchNotices 7 64 []) fullQueue).notices.carried = 8 := by decide +kernel
theorem test_routeSet : (after (.routeSet 7 0 [1, 1, 0x7F]) State.reset).alertB
    = { mode := .latched, routed := 0x7F, latch := false } := by decide +kernel
theorem test_clearAlert : (after (.clearAlert 7 0 [0])
    { State.reset with alertA := { mode := .latched, routed := 1, latch := true } }).alertA.latch = false := by decide +kernel

/-! ### Frames, bytes, reset and time -/

theorem test_badOpRequest : resultAfter (.badOpRequest 7 [0x06, 2, 1]) State.reset = some [6, 7, 1, 2, 1] := by decide +kernel
theorem test_dataFrame : (after (.dataFrame 7 [0x63, 0x02]) receiving).tables.a.contents.map BankContents.entries
    = some [entry 0 611] := by decide +kernel
theorem test_dataFrame_phase : resultAfter (.dataFrame 8 [0]) receiving = some [0x41, 5, 0, 4, 0] := by decide +kernel
/-- A framing error inside a frame is damage; outside one its character is discarded (R169). -/
theorem test_damagedFrame : resultAfter (.damagedFrame .framingError)
      { receiving with link := { receiving.link with partialFrame := some [2] } } = some [0x41, 4, 0, 4, 0]
    ∧ after (.damagedFrame .framingError) receiving = receiving := by decide +kernel
theorem test_frameDiscarded : after (.frameDiscarded 0x03 7 [1]) receiving = receiving := by decide +kernel
theorem test_frameGapTimeout : (after .frameGapTimeout
    { receiving with link := { receiving.link with partialFrame := some [1, 2] } }) = receiving := by decide +kernel
theorem test_silenceTimeout : resultAfter .silenceTimeout receiving = some [0x41, 2, 0, 4, 0] := by decide +kernel
theorem test_requestAbandonsReceiving : resultAfter (.requestAbandonsReceiving 9 [1, 10, 0]) receiving
    = some [0x41, 6, 0, 4, 0] := by decide +kernel
theorem test_requestAbandonsSending : (after (.requestAbandonsSending 9 [1, 10, 0]) sending).link.waiting
    = some { tag := 9, body := [1, 10, 0] } := by decide +kernel
theorem test_waitingRequest : (after (.waitingRequest 9 [1, 10, 0]) resulting).link.waiting
    = some { tag := 9, body := [1, 10, 0] } := by decide +kernel
theorem test_dataFrameTransmitted : resultAfter .dataFrameTransmitted sending = some [1, 0, 0, 0, 0] := by decide +kernel
theorem test_resultFrameTransmitted : after .resultFrameTransmitted resulting = State.reset := by decide +kernel
theorem test_hardwareReset : (after (.hardwareReset true false) oneZone) = { State.reset with link := .reset .r57600 } := by
  decide +kernel
theorem test_timeBaseTick : (after .timeBaseTick { State.reset with timeBase := 0xFFFFFFFF }).timeBase = 0 := by decide +kernel
theorem test_zoneTimerExpiry : (after (.zoneTimerExpiry 0) oneZone) = evaluating := by decide +kernel
/-- The manual's lookups in a whole evaluation: 24.00 °C at 50.00 % over a surface of 15.00 °C. -/
theorem test_evaluationCompletion : ((after .evaluationCompletion evaluating).zone 0).map (fun r => (r.state, r.expiry))
    = some (.level .watch, some 50) := by decide +kernel
theorem test_slotDue : ((after (.slotDue 0) { twoSlots with timeBase := 50 }).slot 0).map Slot.due = some true
    ∧ ((after (.slotDue 0) { twoSlots with timeBase := 49 }).slot 0).map Slot.due = some false := by decide +kernel
theorem test_heatEnd : ((after (.heatEnd 0) (twoSlots.setSlot 0 (some { air 1 with state := .heating, heatEnd := some 0 }))).slot 0).map
    Slot.state = some .pending := by decide +kernel
/-- The frame of a request does what the request does, in one command of characters or in two. -/
theorem test_leadByte : (after (.leadByte ((wireBytes 0x01 7 [0x01, 10, 0]).map linkCharacter)) State.reset)
      = after (.identify 7 10 []) State.reset
    ∧ after (.leadByte (((wireBytes 0x01 7 [0x01, 10, 0]).drop 3).map linkCharacter))
        (after (.leadByte ([0xC3, 0x01, 7].map linkCharacter)) State.reset) = after (.identify 7 10 []) State.reset := by
  decide +kernel
/-- The bits of the lead byte's character as they stand on the wire, and the frame of IDENTIFY's record behind it (R168, R183). -/
theorem test_sentFrame : linkLevels (linkCharacter 0xC3) = [false, true, true, false, false, false, false, true, true, true]
    ∧ sending.link.sentBytes.take 5 = [0xC3, 0x02, 7, 10, 0x5A] ∧ sending.link.sentBytes.length = 16
    ∧ resulting.link.sentBytes.take 5 = [0xC3, 0x03, 7, 5, 4]
    ∧ (List.range 11).map (txdLevel resulting) = [false, true, true, false, false, false, false, true, true, true, false]
    ∧ txdLevel State.reset 0 = true := by decide +kernel

/-! ### Probe lines -/

theorem test_pollStart : ((after (.pollStart 0) ((withLine idleLine twoSlots).setSlot 0 (some { air 1 with due := true }))).line 0)
    = busyLine .sending := by decide +kernel
theorem test_pollSent : ((after (.pollSent 0) (withLine (busyLine .sending) twoSlots)).line 0) = busyLine .awaiting := by decide +kernel
theorem test_lineLeavesIdleLevel : ((after (.lineLeavesIdleLevel 0) (withLine (busyLine .awaiting) twoSlots)).line 0)
    = { busyLine .receiving with activeLevel := true, activeStretch := true } := by decide +kernel
theorem test_lineReturnsToIdleLevel : ((after (.lineReturnsToIdleLevel 0) (withLine faultLine twoSlots)).line 0)
    = { faultLine with activeLevel := false, restStretch := true } := by decide +kernel
theorem test_replyTimeout : ((after (.replyTimeout 0) (withLine (busyLine .awaiting) twoSlots)).slot 0)
    = some { air 1 with misses := 1, lastOutcome := .silent, nextDue := 300, pace := .settled, advancedAt := some 0 } := by decide +kernel
/-- LSB-FIRST: the value's bit 0 comes first and the mark last; MSB-FIRST: the mark first (R123). -/
theorem test_replyCharacter : ((after (.replyCharacter 0 0b100000001) (withLine (busyLine .receiving) twoSlots)).line 0)
    = { busyLine .receiving with state := .busy { txn .receiving with received := [1] } }
    ∧ markOf .msbFirst 0b000000001 = true ∧ valueOf .msbFirst 0b100000001 = 0x01 ∧ valueOf .msbFirst 0b000000011 = 0x80 := by decide +kernel
theorem test_replyFramingError : ((after (.replyFramingError 0) (withLine (busyLine .receiving) twoSlots)).line 0).activeStretch
    = true := by decide +kernel
theorem test_replyGapTimeout : ((after (.replyGapTimeout 0)
    (withLine { busyLine .receiving with state := .busy { txn .receiving with received := [1] } } twoSlots)).slot 0).map
      Slot.lastOutcome = some .malformed := by decide +kernel
/-- A GOOD reply of a C16 air probe: codes 32768 and 65535 are 22.50 °C and 100.00 %. -/
theorem test_replyComplete : ((after (.replyComplete 0 ((crc8 [4, 0x80, 0, 0xFF, 0xFF]).setWidth 9))
    (withLine { busyLine .receiving with
      state := .busy { txn .receiving with received := [1, 4, 0x80, 0, 0xFF, 0xFF] } } twoSlots)).slot 0).bind Slot.reading
      = some { temp := 2250, rh := some 10000, stamp := 0 } := by decide +kernel
/-- An outcome and a recomputation that settles the slot end alike in either order within a tick; a tick later the time is kept (R150,
R151). With equal poll parameters a recomputation changes no time (R152). -/
theorem test_outcomeMeetsRecomputation :
    let watched := twoSlots.setZone 0 (some { zone with state := .level .watch })
    let missed := handOutcome 0 0 (.miss .silent) watched
    ((recompute 0 { missed with zones := oneZone.zones }).slot 0).map Slot.nextDue = some 300
      ∧ ((handOutcome 0 0 (.miss .silent) (recompute 0 oneZone)).slot 0).map Slot.nextDue = some 300
      ∧ ((recompute 0 { missed with zones := oneZone.zones, timeBase := 1 }).slot 0).map (fun r => (r.nextDue, r.pace)) = some (50, .settled)
      ∧ ((recompute 0 { watched.setSlot 0 (some { air 1 with nextDue := 300, pace := .settled }) with
          params := { watched.params with pollSettled := 50 } }).slot 0).map (fun r => (r.nextDue, r.pace)) = some (300, .fast) := by
  decide +kernel
theorem test_discardingEnd : ((after (.discardingEnd 0) (withLine (busyLine .discarding) twoSlots)).line 0)
    = busyLine .turnaround := by decide +kernel
theorem test_turnaroundEnd : ((after (.turnaroundEnd 0) (withLine (busyLine .turnaround) twoSlots)).line 0).state = .idle := by
  decide +kernel
theorem test_lineFaultEntry : ((after (.lineFaultEntry 0)
    (withLine { idleLine with activeLevel := true, activeStretch := true } twoSlots)).line 0) = faultLine := by decide +kernel
theorem test_lineRecovery : ((after (.lineRecovery 0)
    (withLine { faultLine with activeLevel := false, restStretch := true } twoSlots)).line 0) = idleLine := by decide +kernel

/-! ### The manual's worked values -/

theorem test_crc16 : crc16 [0x31, 0x32, 0x33, 0x34, 0x35, 0x36, 0x37, 0x38, 0x39] = 0x29B1 ∧ crc16 [0x00] = 0xE1F0 := by
  decide +kernel
theorem test_crc8 : crc8 [0x01, 0x14] = 0xF2 := by decide +kernel
theorem test_lookups : forwardLookup romEntries 2400 = (2977, false) ∧ forwardLookup romEntries 5200 = (13630, true)
    ∧ forwardLookup romEntries (-1001) = (287, true) ∧ inverseLookup romEntries 2808 = (2300, false) := by decide +kernel
theorem test_scale : ∀ p ∈ [((0 : Nat), (-4000 : Int)), (32768, 2250), (65535, 8499)],
    (calibrate State.reset (air 1) p.1 none).temp = p.2 := by decide +kernel

/-! ### States and operands that meet the hypotheses of the statements

One theorem per statement, named after it; each line meets the hypotheses of one clause, at the ends of the ranges. -/

theorem slot_reset (i : SlotId) : State.reset.slot i = none := by
  unfold State.slot State.reset; simp [Vector.get]

theorem zone_reset (z : ZoneId) : State.reset.zone z = none := by
  unfold State.zone State.reset; simp [Vector.get]

theorem line_reset (l : LineId) : State.reset.line l = Line.reset false := by
  unfold State.line State.reset; simp [Vector.get]

theorem slot_twoSlots (i : SlotId) :
    twoSlots.slot i = if 1 = i then some (surface 2) else if 0 = i then some (air 1) else none := by
  simp [twoSlots, slot_setSlot, slot_reset]

theorem zone_twoSlots (z : ZoneId) : twoSlots.zone z = none := zone_reset z

theorem zone_oneZone (z : ZoneId) : oneZone.zone z = if 0 = z then some zone else none := by
  simp [oneZone, zone_setZone, zone_twoSlots]

theorem ready_reset : Ready State.reset := ⟨rfl, rfl⟩

theorem test_witness_StepRunsFrontCommand :
    { State.reset with pending := [.timeBaseTick, .silenceTimeout] }.pending = .timeBaseTick :: [.silenceTimeout]
      ∧ State.reset.pending = [] := ⟨rfl, rfl⟩

/-- A RESTART's result in transmission, with a STANDBY, a LOADED and a LOADING bank. -/
def restarting (b : Bank) : State :=
  { State.reset with
    link := { resulting.link with restartPending := true }
    tables := { Tables.reset with a := b, b := bankIn .standby } }

theorem test_witness_ResetsPutResetValues :
    Ready State.reset
      ∧ (∀ b, (restarting b).link.result ≠ none ∧ (restarting b).link.restartPending = true
          ∧ (restarting b).tables.loadable .a = some b ∧ (restarting b).tables.loadable .b = some (bankIn .standby))
      ∧ (bankIn .loaded).state = .loaded ∧ loadingTables.a.state = .loading ∧ Bank.emptyBank.state = .empty :=
  ⟨ready_reset, fun _ => ⟨by simp [restarting, resulting], rfl, rfl, rfl⟩, rfl, rfl, rfl⟩

theorem test_witness_RequestsAreChecked :
    Ready State.reset ∧ largestLength .identify < (4097 : Word16).toNat ∧ largestLength .paramSet < (1 : Word16).toNat
      ∧ (4096 : Word16).toNat ≤ largestLength .tableRead ∧ paramsSize .tableRead = some 3
      ∧ ([] : List Byte).length ≠ 3 ∧ ([0, 0, 0, 0] : List Byte).length ≠ 3
      ∧ ([] : List Byte).length < 8 ∧ (List.replicate 7 (0 : Byte)).length < 8
      ∧ Op.ofCode 0x06 = none ∧ (List.replicate 61 (0 : Byte)).length ≤ 61
      ∧ 95 < (96 : Byte).toNat ∧ 23 < (24 : Byte).toNat ∧ 2 < (3 : Byte).toNat ∧ 63 < (64 : Byte).toNat :=
  ⟨ready_reset, by decide⟩

theorem test_witness_IdentifyAndStatusSendRecords :
    Ready State.reset ∧ 10 ≤ (10 : Word16).toNat ∧ (9 : Word16).toNat < 10 ∧ 57 ≤ (57 : Word16).toNat
      ∧ (4096 : Word16).toNat ≤ 4096 := ⟨ready_reset, by decide⟩

theorem test_witness_FirstDataFrameHoldsWhatFits :
    Ready State.reset ∧ Ready fullQueue ∧ Ready oneZone
      -- IDENTIFY: one record
      ∧ recordsCalledFor State.reset (.identify 7 10 []) = some (7, .identify, 10, [identityRecord])
      ∧ FrameHolds [identityRecord] 10 1
      -- READ_PROBES: 96 VACANT slots of two bytes; 32 fill a frame, and with E = 63 the 32nd does not fit
      ∧ (∃ recs, recordsCalledFor State.reset (.readProbes 7 63 [0, 255]) = some (7, .readProbes, 63, recs)
          ∧ FrameHolds recs 4096 32 ∧ FrameHolds recs 63 31)
      -- READ_STATUS, READ_ZONES, TABLE_READ
      ∧ (∃ recs, recordsCalledFor State.reset (.readStatus 7 57 []) = some (7, .readStatus, 57, recs) ∧ FrameHolds recs 57 4)
      ∧ (∃ recs, recordsCalledFor oneZone (.readZones 7 47 [0, 1]) = some (7, .readZones, 47, recs) ∧ FrameHolds recs 47 1)
      ∧ (∃ recs, recordsCalledFor State.reset (.tableRead 7 4096 [0, 0, 32]) = some (7, .tableRead, 4096, recs)
          ∧ FrameHolds recs 4096 12)
      -- FETCH_NOTICES: eight notices of eight bytes
      ∧ ∃ recs, recordsCalledFor fullQueue (.fetchNotices 7 64 []) = some (7, .fetchNotices, 64, recs)
          ∧ FrameHolds recs 64 8 := by
  refine ⟨ready_reset, ⟨rfl, rfl⟩, ⟨rfl, rfl⟩, rfl, by unfold FrameHolds; decide +kernel, ?_⟩
  repeat' apply And.intro
  all_goals refine ⟨_, rfl, ?_⟩
  all_goals
    unfold FrameHolds
    decide +kernel

theorem test_witness_NoFittingRecordEndsAtOnce :
    Ready State.reset ∧ recordsCalledFor State.reset (.identify 7 9 []) = some (7, .identify, 9, [identityRecord])
      ∧ FrameHolds [identityRecord] 9 0
      ∧ recordsCalledFor State.reset (.fetchNotices 7 64 []) = some (7, .fetchNotices, 64, []) ∧ FrameHolds [] 64 0
      ∧ (∃ recs, recordsCalledFor State.reset (.tableRead 7 4 [0, 31, 1]) = some (7, .tableRead, 4, recs)
          ∧ FrameHolds recs 4 0)
      ∧ recordsCalledFor State.reset (.tableRead 7 4096 [0, 63, 1]) = some (7, .tableRead, 4096, []) := by
  refine ⟨ready_reset, rfl, ?_, rfl, ?_, ⟨_, rfl, ?_⟩, by decide +kernel⟩
  all_goals unfold FrameHolds; decide +kernel

/-- The general status record of a READ_STATUS is in transmission. -/
def sendingStatus : State :=
  { State.reset with link := { State.reset.link with
      state := .sending, exchange := some { exchangeOf 7 0x02 100 with source := some (.status 1) }
      dataFrame := some { tag := 7, body := generalRecord State.reset } } }

/-- Eight of 128 notices are in transmission, with room for more. -/
def sendingNotices : State :=
  { fullQueue with
    notices := { fullQueue.notices with carried := 8 }
    link := { State.reset.link with
      state := .sending, exchange := some { exchangeOf 7 0x50 4096 with source := some .notices }
      dataFrame := some { tag := 7, body := ((List.replicate 8 notice).map Notice.record).flatten } } }

theorem test_witness_DataFrameTransmittedGoesOn :
    -- no record is left
    (∃ f x, sending.link.dataFrame = some f ∧ sending.link.exchange = some x ∧ x.source = some (.identity true)
        ∧ remainingRecords sending (.identity true) = [] ∧ FrameHolds [] (x.expected - (x.moved + f.body.length)) 0
        ∧ sending.link.waiting = none)
      -- three records are left and fit
      ∧ (∃ f x, sendingStatus.link.dataFrame = some f ∧ sendingStatus.link.exchange = some x ∧ x.source = some (.status 1)
        ∧ FrameHolds (remainingRecords sendingStatus (.status 1)) (x.expected - (x.moved + f.body.length)) 3
        ∧ sendingStatus.link.waiting = none ∧ x.closed = false)
      -- 120 notices are left, and eight fit
      ∧ (∃ f x u, sendingNotices.link.dataFrame = some f ∧ sendingNotices.link.exchange = some x ∧ x.source = some .notices
        ∧ u = { sendingNotices with notices := { sendingNotices.notices with
            queue := sendingNotices.notices.queue.drop sendingNotices.notices.carried, carried := 0 } }
        ∧ FrameHolds (remainingRecords u .notices) (x.expected - (x.moved + f.body.length)) 8
        ∧ sendingNotices.link.waiting = none ∧ x.closed = false)
      -- a request waits; a record has shut out the later ones
      ∧ { sending.link with waiting := some { tag := 9, body := [] } }.waiting ≠ none
      ∧ { exchangeOf 7 0x02 100 with closed := true }.closed = true := by
  refine ⟨⟨_, _, rfl, rfl, rfl, rfl, ?_, rfl⟩, ⟨_, _, rfl, rfl, rfl, ?_, rfl, rfl⟩, ⟨_, _, _, rfl, rfl, rfl, rfl, ?_, rfl, rfl⟩,
    by simp, rfl⟩
  all_goals unfold FrameHolds; decide +kernel

/-- The largest member lists. -/
def largeDefn : ZoneDef := { defn with air := [0, 1, 2, 3, 4, 5], surface := [6, 7, 8, 9, 10, 11, 12, 95] }

/-- The values of the manual's worked evaluation. -/
def values : Values := { dewPoint := 1286, coldest := 1500, margin := 214, airSlot := 0, surfaceSlot := 1 }

theorem test_witness_RecordsHaveTheirLayouts :
    State.reset.slot 0 = none ∧ twoSlots.slot 0 = some (air 1) ∧ (air 1).reading ≠ none ∧ { air 1 with reading := none }.reading = none
      ∧ State.reset.zone 0 = none
      ∧ (twoSlots.setZone 23 (some { zone with defn := largeDefn })).zone 23 = some { zone with defn := largeDefn }
      ∧ largeDefn.air.length ≤ 6 ∧ largeDefn.surface.length ≤ 8
      ∧ zone.latest ≠ none ∧ zone.latest.bind Latest.values = some values
      ∧ { zone with latest := none }.latest = none ∧ { zone with latest := none }.latest.bind Latest.values = none
      -- one notice of each form
      ∧ NoticeBody.zoneState 0 .blind (.level .clear) (some values) ≠ .zoneState 0 (.level .clear) .blind none
      ∧ NoticeBody.probeState 0 .live .lost .silent ≠ .lineState 0 .idle .fault
      ∧ NoticeBody.heatDeferred 0 0 ≠ .tableSwap .a .rom := by
  refine ⟨slot_reset 0, by decide +kernel, by decide, rfl, zone_reset 0, zone_setZone_same _ _ _, by decide⟩

/-- The first field of the frame's record is its slot number, the second its state, and the flags of a slot with a reading are 1. -/
theorem test_slotRecord : fieldAt (slotRecord twoSlots 1) 0 1 = 1 ∧ fieldAt (slotRecord twoSlots 1) 1 1 = 2
    ∧ fieldAt (slotRecord twoSlots 1) 21 1 = 1 ∧ fieldAt (slotRecord twoSlots 1) 23 2 = 1500 := by decide +kernel

theorem test_witness_RequestsOutsideIdleWait :
    (receiving.link.state = .receiving ∧ receiving.link.result = none ∧ receiving.link.exchange = some (exchange 4))
      ∧ (sending.link.state = .sending ∧ sending.link.result = none) ∧ resulting.link.result ≠ none
      ∧ (List.replicate 64 (0 : Byte)).length ≤ 64 ∧ ¬Ready receiving ∧ ¬Ready sending ∧ ¬Ready resulting := by
  refine ⟨⟨rfl, rfl, rfl⟩, ⟨rfl, rfl⟩, by decide, by decide, ?_, ?_, ?_⟩ <;> unfold Ready <;> decide

/-- IDENTIFY waits behind a result. -/
def waitingLink : Link := { resulting.link with waiting := some { tag := 9, body := requestBody .identify 10 [] } }

theorem test_witness_ResultTransmittedTakesWaiting :
    (resulting.link.result ≠ none ∧ resulting.link.restartPending = false ∧ resulting.link.waiting = none)
      ∧ (waitingLink.result ≠ none ∧ waitingLink.restartPending = false ∧ waitingLink.state = .idle
        ∧ waitingLink.partialFrame = none ∧ waitingLink.waiting = some { tag := 9, body := requestBody .identify 10 [] })
      ∧ Ready State.reset := by
  refine ⟨by decide, by decide, ready_reset⟩

theorem test_witness_BadFramesEndReceiving :
    (receiving.link.state = .receiving ∧ receiving.link.exchange = some (exchange 4) ∧ (8 : Byte) ≠ (exchange 4).tag)
      ∧ (∀ k t b crc, FrameDamage.badCrc 2 7 [] 0 = .badCrc k t b crc → crc ≠ crc16 (k :: t :: byte b.length :: b))
      ∧ (∀ n, FrameDamage.oversizeLength 65 = .oversizeLength n → 64 < n.toNat)
      ∧ (FrameDamage.framingError = .framingError → { receiving.link with partialFrame := some [] }.partialFrame ≠ none)
      ∧ receiving.link.partialFrame = none
      ∧ sending.link.state ≠ .receiving ∧ State.reset.link.state ≠ .receiving ∧ (0x03 : Byte) ≠ 0x01
      ∧ (List.replicate 64 (0 : Byte)).length ≤ 64 := by
  refine ⟨by decide, ?_, ?_, by decide⟩
  · intro k t b crc h; cases h; decide +kernel
  · intro n h; cases h; decide

theorem test_witness_WireBytesAreFrames :
    State.reset.link.partialFrame = none ∧ (List.replicate 61 (0 : Byte)).length ≤ 61
      ∧ refusedByCheckOne [0x06, 0, 0] = true ∧ refusedByCheckOne [] = true ∧ (List.replicate 64 (0 : Byte)).length ≤ 64
      ∧ (0x02 : Byte) ≠ 0x01 ∧ word16 0 0 ≠ crc16 [0x01, 7, 0] ∧ 64 < (65 : Byte).toNat
      ∧ (∀ len, ([0x01, 7, 64] ++ List.replicate 65 0 : List Byte)[2]? = some len →
          len.toNat ≤ 64 ∧ ([0x01, 7, 64] ++ List.replicate 65 0 : List Byte).length < len.toNat + 5)
      ∧ (∀ len, ([] : List Byte)[2]? = some len → len.toNat ≤ 64 ∧ ([] : List Byte).length < len.toNat + 5)
      ∧ (0xC2 : Byte) ≠ 0xC3 ∧ (0xFF : LinkCharacter).getLsbD 8 = false
      ∧ (∃ t, exec (.leadByte (([0xC3] : List Byte).map linkCharacter)) State.reset = .next t ∧ t.link.partialFrame = some [])
      -- a RESULT frame and a DATA frame stand on SL-TXD, with a last level; and nothing does
      ∧ (resulting.link.result ≠ none ∧ sending.link.result = none ∧ sending.link.dataFrame ≠ none
        ∧ (sending.link.sentBytes[15]?.isSome = true ∧ sending.link.sentBytes.length = 16 ∧ 9 < 10))
      ∧ State.reset.link.result = none ∧ State.reset.link.dataFrame = none := by
  refine ⟨rfl, by decide, by decide, by decide, by decide, by decide, by decide +kernel, by decide, ?_, ?_, by decide, by decide,
    ⟨_, rfl, rfl⟩, by decide +kernel, rfl, rfl⟩
  · intro len h; cases h; decide
  · intro len h; cases h

theorem test_witness_ParametersAreSetAndRead :
    Ready State.reset ∧ paramOfCode 2 = some .pollFast ∧ Param.pollFast.admits State.reset.params 5
      ∧ Param.pollFast.admits State.reset.params 300 ∧ ¬Param.pollFast.admits State.reset.params 4
      ∧ ¬Param.pollFast.admits State.reset.params 301 ∧ paramOfCode 14 = none ∧ paramOfCode 13 = some .policy
      ∧ Param.policy.admits State.reset.params 1 ∧ ¬Param.policy.admits State.reset.params 2 := by
  refine ⟨ready_reset, ?_⟩
  simp only [Param.admits, Param.range]; decide

theorem test_witness_LinesAreSetUpAndStopped :
    Ready State.reset ∧ lineOfByte 0 = some 0 ∧ lineOfByte 3 = some 3 ∧ lineOfByte 4 = none
      ∧ rateOfCode 0 ≠ none ∧ rateOfCode 4 ≠ none ∧ rateOfCode 5 = none ∧ orderOfCode 1 ≠ none ∧ orderOfCode 2 = none
      ∧ (State.reset.line 3).state = .off ∧ Ready (withLine idleLine State.reset)
      ∧ ((withLine idleLine State.reset).line 0).state ≠ .off
      ∧ (4 : Byte).toNat < 5 ∧ 5 ≤ (5 : Byte).toNat ∧ (250 : Byte).toNat ≤ 250 ∧ 250 < (251 : Byte).toNat
      ∧ (9 : Byte).toNat + 256 * (0 : Byte).toNat < 10 ∧ 10 ≤ (10 : Byte).toNat + 256 * (0 : Byte).toNat
      ∧ (0xE8 : Byte).toNat + 256 * (3 : Byte).toNat ≤ 1000 ∧ 1000 < (0xE9 : Byte).toNat + 256 * (3 : Byte).toNat
      ∧ 3 < (4 : Byte).toNat := by
  refine ⟨ready_reset, ?_⟩
  repeat' apply And.intro
  all_goals decide +kernel

theorem test_witness_ProbeEnrolEnrolsOrRefuses :
    Ready State.reset ∧ Ready twoSlots ∧ Ready (withLine faultLine State.reset)
      ∧ slotOfByte 95 = some 95 ∧ slotOfByte 96 = none ∧ lineOfByte 3 = some 3 ∧ kindOfCode 0 = some .air
      ∧ kindOfCode 1 = some .surface ∧ classOfCode 2 = some .c16 ∧ classOfCode 3 = none ∧ wideningOfCode 3 = some .mid
      ∧ 1 ≤ (1 : Byte).toNat ∧ (62 : Byte).toNat ≤ 62 ∧ 62 < (63 : Byte).toNat ∧ (0 : Byte).toNat < 1
      ∧ signed16 0x0C 0xFE = -500 ∧ signed16 0xF4 0x01 = 500 ∧ signed16 0x0B 0xFE < -500
      ∧ signed16 0x18 0xFC = -1000 ∧ signed16 0xE8 0x03 = 1000 ∧ 1000 < signed16 0xE9 0x03
      ∧ State.reset.slot 95 = none ∧ (∀ j q, State.reset.slot j = some q → q.line = 3 → q.address ≠ 62)
      ∧ (∀ j q, twoSlots.slot j = some q → q.line = 3 → q.address ≠ 1)
      ∧ (State.reset.line 3).state ≠ .fault ∧ ((withLine faultLine State.reset).line 0).state = .fault
      -- NOT_VACANT, and DUPLICATE of slot 0
      ∧ twoSlots.slot 0 ≠ none ∧ twoSlots.slot 95 = none ∧ twoSlots.slot 0 = some (air 1)
      ∧ lineOfByte 0 = some (air 1).line ∧ (air 1).address = (1 : Byte).toNat
      ∧ ∀ j' < (0 : SlotId), ∀ q', twoSlots.slot j' = some q' → ¬(q'.line = (air 1).line ∧ q'.address = (air 1).address) := by
  refine ⟨ready_reset, ?_⟩
  repeat' apply And.intro
  all_goals decide +kernel

theorem test_witness_ProbeWithdrawVacatesSlot :
    Ready twoSlots ∧ Ready oneZone ∧ 95 < (96 : Byte).toNat ∧ slotOfByte 95 = some 95 ∧ twoSlots.slot 95 = none
      ∧ (oneZone.slot 0 = some (air 1) ∧ oneZone.zone 0 = some zone ∧ 0 ∈ zone.defn.members
        ∧ ∀ y < (0 : ZoneId), ∀ yr, oneZone.zone y = some yr → 0 ∉ yr.defn.members)
      ∧ (twoSlots.slot 0 = some (air 1) ∧ (∀ z zr, twoSlots.zone z = some zr → 0 ∉ zr.defn.members)
        ∧ ∀ t, (twoSlots.line (air 1).line).state = .busy t → t.slot = 0 → t.phase = .discarding ∨ t.phase = .turnaround)
      ∧ (∀ p, ((withLine (busyLine p) twoSlots).line (air 1).line).state = .busy (txn p) ∧ (txn p).slot = 0
        ∧ (withLine (busyLine p) twoSlots).slot 0 = some (air 1)) := by
  refine ⟨⟨rfl, rfl⟩, ⟨rfl, rfl⟩, by decide, by decide, by decide +kernel, ⟨by decide +kernel, by decide +kernel, by decide, ?_⟩,
    ⟨by decide +kernel, ?_, ?_⟩, ?_⟩
  · intro y h; exact absurd h (Fin.not_lt_zero y)
  · intro z zr h; rw [zone_twoSlots] at h; cases h
  · intro t h
    have : (twoSlots.line 0).state = .off := by decide +kernel
    rw [show (air 1).line = 0 from rfl, this] at h; cases h
  · intro p; cases p <;> decide +kernel

theorem test_witness_ProbesAreHeldAndReleased :
    Ready twoSlots ∧ slotOfByte 0 = some 0 ∧ twoSlots.slot 95 = none
      ∧ (∀ st, (twoSlots.setSlot 0 (some { air 1 with state := st })).slot 0 = some { air 1 with state := st })
      ∧ (∀ r, twoSlots.slot 95 = some r → r.state ≠ .held) ∧ (∀ r, twoSlots.slot 0 = some r → r.state ≠ .held)
      ∧ ((withLine faultLine twoSlots).line (air 1).line).state = .fault ∧ (twoSlots.line (air 1).line).state ≠ .fault := by
  refine ⟨⟨rfl, rfl⟩, by decide, by decide +kernel, fun st => slot_setSlot_same _ _ _, ?_, ?_, by decide +kernel,
    by decide +kernel⟩
  · intro r h; rw [slot_twoSlots] at h; cases h
  · intro r h; rw [slot_twoSlots] at h; cases h; decide

theorem test_witness_HeatProbeArmsSlot :
    Ready twoSlots ∧ 95 < (96 : Byte).toNat ∧ slotOfByte 1 = some 1 ∧ twoSlots.slot 95 = none
      ∧ (twoSlots.slot 1 = some (surface 2) ∧ (surface 2).kind = .surface)
      ∧ (twoSlots.slot 0 = some (air 1) ∧ (air 1).kind = .air ∧ (air 1).state ≠ .heating ∧ (air 1).state ≠ .held
        ∧ (air 1).armed = none)
      ∧ { air 1 with armed := some .rule }.armed ≠ none ∧ { air 1 with state := .held }.state = .held := by
  refine ⟨⟨rfl, rfl⟩, by decide, by decide, by decide +kernel, ⟨by decide +kernel, rfl⟩, ⟨by decide +kernel, by decide⟩, by decide⟩

/-- Zone 0 is under evaluation, and a second surface slot is enrolled. -/
def evaluatingThree : State := evaluating.setSlot 2 (some (surface 3))

theorem test_witness_ZoneDefineDefinesZone :
    -- with the evaluator idle
    (Ready twoSlots ∧ zoneOfByte 23 = some 23 ∧ defn.Valid ∧ largeDefn.Valid
      ∧ defn.watch = (0x2C : Byte).toNat + 256 * (1 : Byte).toNat ∧ defn.alert = (150 : Byte).toNat + 256 * (0 : Byte).toNat
      ∧ ([1, 0, 1, 1] : List Byte) = byte defn.air.length :: (defn.air.map fun m => byte m.val)
          ++ byte defn.surface.length :: (defn.surface.map fun m => byte m.val)
      ∧ twoSlots.zone 23 = none
      ∧ (∀ m ∈ defn.air, (∃ q, twoSlots.slot m = some q ∧ q.kind = .air) ∧ zonesListing twoSlots .air m < 2)
      ∧ (∀ m ∈ defn.surface, (∃ q, twoSlots.slot m = some q ∧ q.kind = .surface) ∧ zonesListing twoSlots .surface m < 1)
      ∧ (twoSlots.current = none → twoSlots.dueQueue = []) ∧ twoSlots.current = none ∧ ¬faultedMember twoSlots defn)
      -- during an evaluation, the air slot in its second zone; and with a member on a line in FAULT
      ∧ (Ready evaluatingThree ∧ evaluatingThree.current.isSome = true ∧ evaluatingThree.zone 1 = none
        ∧ (∃ q, evaluatingThree.slot 0 = some q ∧ q.kind = .air) ∧ zonesListing evaluatingThree .air 0 < 2
        ∧ (∃ q, evaluatingThree.slot 2 = some q ∧ q.kind = .surface) ∧ zonesListing evaluatingThree .surface 2 < 1)
      ∧ faultedMember (withLine faultLine twoSlots) defn := by
  refine ⟨⟨⟨rfl, rfl⟩, by decide, ?_, ?_, by decide, by decide, by decide, zone_twoSlots _, ?_, ?_, fun _ => rfl, rfl, ?_⟩,
    ⟨⟨rfl, rfl⟩, rfl, by decide +kernel, ⟨air 1, by decide +kernel⟩, by decide +kernel, ⟨surface 3, by decide +kernel⟩,
      by decide +kernel⟩, 0, by decide, by decide +kernel⟩
  · unfold ZoneDef.Valid; decide
  · unfold ZoneDef.Valid; decide
  · intro m hm
    simp only [defn, List.mem_singleton] at hm; subst hm
    exact ⟨⟨air 1, by decide +kernel⟩, by decide +kernel⟩
  · intro m hm
    simp only [defn, List.mem_singleton] at hm; subst hm
    exact ⟨⟨surface 2, by decide +kernel⟩, by decide +kernel⟩
  · unfold faultedMember; decide +kernel

theorem test_witness_ZoneDefineRefusals :
    Ready twoSlots ∧ 23 < (24 : Byte).toNat ∧ parseDefinition 300 150 30 1 2 [1, 0, 1, 1] = some defn
      ∧ parseDefinition 1 150 30 1 2 [1, 0, 1, 1] = none ∧ parseDefinition 300 150 30 1 2 [1, 0, 1, 96] = none
      ∧ oneZone.zone 0 ≠ none ∧ oneZone.zone 1 = none
      -- VACANT and WRONG_KIND: the first member with nothing before it
      ∧ (State.reset.slot 0 = none ∧ ∀ p ∈ ([] : List (SlotId × Kind)), ∃ q, State.reset.slot p.1 = some q ∧ q.kind = p.2)
      ∧ (twoSlots.slot 1 = some (surface 2) ∧ (surface 2).kind ≠ .air)
      -- LIMIT: the surface slot of zone 0 again, after an air slot that is free
      ∧ ((defn.air.map fun m => (m, Kind.air)) ++ (defn.surface.map fun m => (m, Kind.surface)) = [(0, .air)] ++ (1, .surface) :: []
        ∧ (∀ p ∈ [((0 : SlotId), Kind.air)] ++ (1, .surface) :: [], ∃ q, oneZone.slot p.1 = some q ∧ q.kind = p.2)
        ∧ (∀ p ∈ [((0 : SlotId), Kind.air)], zonesListing oneZone p.2 p.1 < (if p.2 = .air then 2 else 1))
        ∧ 1 ≤ zonesListing oneZone .surface 1) := by
  refine ⟨⟨rfl, rfl⟩, by decide, by decide +kernel, by decide +kernel, by decide +kernel, by decide +kernel, by decide +kernel,
    ⟨slot_reset _, by intro p hp; cases hp⟩, ⟨by decide +kernel, by decide⟩, rfl, ?_, by decide +kernel, by decide +kernel⟩
  intro p hp
  simp only [List.cons_append, List.nil_append, List.mem_cons, List.not_mem_nil, or_false] at hp
  rcases hp with rfl | rfl
  · exact ⟨air 1, by decide +kernel⟩
  · exact ⟨surface 2, by decide +kernel⟩

theorem test_witness_ZoneCloseClosesZone :
    Ready oneZone ∧ 23 < (24 : Byte).toNat ∧ zoneOfByte 23 = some 23 ∧ oneZone.zone 23 = none ∧ zoneOfByte 0 = some 0
      ∧ oneZone.zone 0 = some zone ∧ ¬faultedMember oneZone zone.defn := by
  refine ⟨⟨rfl, rfl⟩, by decide, by decide, by decide +kernel, by decide, by decide +kernel, ?_⟩
  unfold faultedMember; decide +kernel

theorem test_witness_TableBeginStartsLoad :
    Ready State.reset ∧ (0 : Byte).toNat = 0 ∧ 2 < (3 : Byte).toNat ∧ (1 : Byte).toNat < 2 ∧ 64 < (65 : Byte).toNat
      ∧ bankOfCode 2 = some .b ∧ Tables.reset.loadable .b = some Bank.emptyBank ∧ 2 ≤ (2 : Byte).toNat
      ∧ (64 : Byte).toNat ≤ 64 ∧ Bank.emptyBank.state ≠ .active ∧ Bank.emptyBank.state ≠ .pending
      ∧ (bankIn .pending).state = .pending ∧ loadingTables.loadable .a = some loadingTables.a
      ∧ loadingTables.a.state = .loading := ⟨ready_reset, by decide⟩

theorem test_witness_TableLoadTakesBytes :
    Ready State.reset ∧ State.reset.tables.cursor = none ∧ loadingTables.cursor ≠ none ∧ (4096 : Word16).toNat ≤ 4096
      ∧ (receiving.link.state = .receiving ∧ receiving.link.exchange = some (exchange 4) ∧ (exchange 4).taken < (exchange 4).expected
        ∧ receiving.tables.cursor ≠ none ∧ (exchange 4).held = none ∧ (exchange 4).taken + 1 < (exchange 4).expected)
      ∧ (exchange 1).taken + 1 = (exchange 1).expected
      ∧ { exchange 4 with held := some 0, taken := 3 }.taken + 1 = (exchange 4).expected
      ∧ { exchange 4 with held := some 0, taken := 1 }.taken + 1 < (exchange 4).expected := ⟨ready_reset, by decide⟩

/-- The load of `receiving` with one byte of room, and with its bank complete. -/
def receivingLast : State := { receiving with link := { receiving.link with exchange := some { exchange 2 with taken := 1, held := some 0 } } }
def receivingFull : State := { receiving with tables := { Tables.reset with a := bankIn .loaded } }

theorem test_witness_DataFramesWriteElements :
    -- the first frame leaves the exchange RECEIVING
    (∃ t y, exec (.dataFrame 7 [0x63]) receiving = .next t ∧ t.link.exchange = some y ∧ t.link.state = .receiving)
      -- the first frame reaches E, and another byte follows
      ∧ (∃ t y, receivingLast.link.state = .receiving ∧ exec (.dataFrame 7 [2]) receivingLast = .next t
        ∧ t.link.exchange = some y ∧ t.link.state ≠ .receiving ∧ y.taken = 2)
      -- the table is full
      ∧ (∃ t y, exec (.dataFrame 7 [2]) receivingFull = .next t ∧ t.link.exchange = some y ∧ t.link.state ≠ .receiving
        ∧ y.taken ≠ 4)
      -- an element in either position, and the last one of the bank
      ∧ (∃ cur b c, loadingTables.cursor = some cur ∧ loadingTables.loadable cur.bank = some b ∧ b.contents = some c
        ∧ cur.position = .pressure ∧ c.partialTemp = some 0 ∧ c.entries.length + 1 ≠ c.declared)
      ∧ ({ bank := .a, entry := 63, position := .temperature } : LoadCursor).position = .temperature
      ∧ [entry 0 611].length + 1 = 2 :=
  ⟨⟨_, _, rfl, rfl, rfl⟩, ⟨_, _, rfl, rfl, rfl, by decide, by decide⟩, ⟨_, _, rfl, rfl, by decide, by decide⟩,
    ⟨_, _, _, rfl, rfl, rfl, rfl, rfl, by decide⟩, rfl, rfl⟩

/-- Bank B is LOADED and ready for its commit. -/
def loadedTables : Tables := { Tables.reset with b := bankIn .loaded }

theorem orderHolds_bankIn (i : Nat) : OrderHolds [entry 0 611, entry 100 657] i := by
  intro y hy
  match i, hy with
  | 0, hy => cases hy; exact ⟨by decide, fun _ h => absurd h (Nat.lt_irrefl 0)⟩
  | 1, hy => cases hy; exact ⟨by decide, fun x _ hx => by cases hx; decide⟩
  | n + 2, hy => simp at hy

theorem test_witness_TableCommitValidatesOrRefuses :
    Ready State.reset ∧ bankOfCode 2 = some .b ∧ loadedTables.loadable .b = some (bankIn .loaded)
      ∧ (bankIn .loaded).state = .loaded
      ∧ (∃ c, (bankIn .loaded).contents = some c ∧ c.check1 = word16 0x34 0x12 ∧ c.check2 = word16 0xFF 0xFF
        ∧ (∀ i, OrderHolds c.entries i) ∧ c.check1 ≠ word16 0x35 0x12 ∧ c.check2 ≠ word16 0xFF 0xFE)
      ∧ (∀ j, loadedTables.stateOf j ≠ .pending) ∧ (∀ j, loadedTables.stateOf j = .active ↔ j = .rom)
      ∧ State.reset.current = none ∧ evaluating.current ≠ none
      -- refusals
      ∧ (0 : Byte).toNat = 0 ∧ 2 < (3 : Byte).toNat ∧ Bank.emptyBank.state ≠ .loaded
      ∧ (∃ j, { loadedTables with a := bankIn .pending }.stateOf j = .pending)
      ∧ OrderFails [entry 0 0] 0 ∧ OrderFails [entry 0 611, entry 0 657] 1 := by
  refine ⟨ready_reset, by decide, rfl, rfl, ⟨_, rfl, by decide, by decide, orderHolds_bankIn, by decide, by decide⟩, ?_, ?_, rfl,
    by decide, by decide, by decide, by decide, ⟨.a, rfl⟩, ?_, ?_⟩
  · intro j; cases j <;> decide
  · intro j; cases j <;> decide
  · exact ⟨fun h => absurd (h (entry 0 0) rfl).1 (by decide), fun j h => absurd h (Nat.not_lt_zero j)⟩
  · refine ⟨fun h => absurd ((h (entry 0 657) rfl).2 (entry 0 611) (by decide) rfl).1 (by decide), fun j h => ?_⟩
    have : j = 0 := by omega
    subst this
    intro y hy; cases hy; exact ⟨by decide, fun _ h => absurd h (Nat.lt_irrefl 0)⟩

/-- Bank A is STANDBY and bank B PENDING. -/
def standbyTables (b : BankState) : Tables := { Tables.reset with a := bankIn .standby, b := bankIn b }

theorem test_witness_TableSelectSelectsBank :
    Ready State.reset ∧ 2 < (3 : Byte).toNat ∧ bankOfCode 1 = some .a ∧ Tables.reset.stateOf .rom = .active
      ∧ (standbyTables .pending).stateOf .b = .pending ∧ Tables.reset.stateOf .a = .empty
      ∧ (standbyTables .pending).stateOf .a = .standby ∧ (∃ j, (standbyTables .pending).stateOf j = .pending)
      ∧ (∀ j, (standbyTables .loaded).stateOf j ≠ .pending)
      ∧ (∀ j, (standbyTables .loaded).stateOf j = .active ↔ j = .rom)
      ∧ State.reset.current = none ∧ evaluating.current ≠ none := by
  refine ⟨ready_reset, by decide, by decide, rfl, rfl, rfl, rfl, ⟨.b, rfl⟩, ?_, ?_, rfl, by decide⟩
  · intro j; cases j <;> decide
  · intro j; cases j <;> decide

theorem test_witness_AlertLinesAreRoutedAndCleared :
    Ready State.reset ∧ alertModeOfCode 0 = some .level ∧ alertModeOfCode 1 = some .latched ∧ (0x7F : Byte).toNat < 128
      ∧ 1 < (2 : Byte).toNat ∧ alertModeOfCode 2 = none ∧ 128 ≤ (0x80 : Byte).toNat := ⟨ready_reset, by decide⟩

theorem test_witness_NoticesArriveInOrder :
    State.reset.notices.queue.length < 128
      ∧ { State.reset with notices := { queue := List.replicate 31 notice, overflow := false, carried := 0 } }.notices.queue.length
          + 1 = State.reset.params.watermark
      ∧ 128 ≤ fullQueue.notices.queue.length ∧ fullQueue.params.policy = .keepOldest
      ∧ { fullQueue.params with policy := .keepNewest }.policy = .keepNewest := by decide

theorem test_witness_AlertLinesFollowSources :
    { AlertLine.reset with mode := .latched }.mode = .latched ∧ AlertLine.reset.mode = .level := ⟨rfl, rfl⟩

theorem test_witness_TicksAndTimerExpiries :
    (oneZone.zone 0 = some zone ∧ zone.expiry = some 0 ∧ reached oneZone.timeBase 0 ∧ oneZone.current = none
        ∧ oneZone.dueQueue = [])
      ∧ { oneZone with current := evaluating.current }.current ≠ none
      -- 6000 ticks ahead is not reached, 6001 is the wrap of a time that was passed
      ∧ ¬reached 0 1 ∧ ¬reached 0 6000 ∧ reached 0 6001 ∧ reached 1 0
      ∧ ∀ r t, evaluating.zone 0 = some r → r.expiry = some t → ¬reached evaluating.timeBase t := by
  refine ⟨⟨by decide +kernel, rfl, ?_, rfl, rfl⟩, by simp [evaluating], ?_, ?_, ?_, ?_, ?_⟩
  iterate 5 unfold reached; decide
  intro r t h he
  have : evaluating.zone 0 = some { zone with expiry := none } := by decide +kernel
  rw [this] at h; cases h; cases he

theorem test_witness_CompletionWritesZone :
    (∃ c, evaluating.current = some c ∧ c.zone = some 0 ∧ evaluating.zone 0 = some { zone with expiry := none }
      ∧ (0 : ZoneId) ∉ evaluating.dueQueue ∧ (∀ y ∈ evaluating.dueQueue, evaluating.zone y ≠ none)
      ∧ (qualify c.defn { zone with expiry := none } ((evaluate romEntries c).map fun p => p.1.margin)).state ≠ zone.state)
      ∧ evaluating.dueQueue = [] ∧ (∀ j, evaluating.tables.stateOf j ≠ .pending)
      -- another zone waits; a bank is PENDING
      ∧ [(5 : ZoneId)].head? = some 5 ∧ (0 : ZoneId) ∉ [(5 : ZoneId)]
      ∧ (∀ j, { Tables.reset with a := bankIn .pending }.stateOf j = .pending ↔ j = .a)
      ∧ (∀ j, { Tables.reset with a := bankIn .pending }.stateOf j = .active ↔ j = .rom) := by
  refine ⟨⟨_, rfl, rfl, by decide +kernel, by decide, ?_, by decide +kernel⟩, rfl, ?_, rfl, by decide, ?_, ?_⟩
  · intro y h; cases h
  all_goals intro j; cases j <;> decide

theorem test_witness_CompletionNotifies :
    (∃ c, evaluating.current = some c ∧ c.zone = some 0 ∧ evaluating.zone 0 = some { zone with expiry := none }
        ∧ (qualify c.defn { zone with expiry := none } ((evaluate romEntries c).map fun p => p.1.margin)).state ≠ zone.state
        -- from WATCH the same margin changes nothing
        ∧ qualify c.defn { zone with state := .level .watch } ((evaluate romEntries c).map fun p => p.1.margin)
            = { state := .level .watch, riseCount := 0, floor := none, fallCount := 0, ceiling := none })
      ∧ ¬faultedMember evaluating defn ∧ faultedMember (withLine faultLine evaluating) defn
      ∧ (∃ t, exec .evaluationCompletion evaluating = .next t) ∧ (∀ j, evaluating.tables.stateOf j ≠ .pending)
      ∧ (∀ j, { Tables.reset with a := bankIn .pending }.stateOf j = .pending ↔ j = .a)
      ∧ (∀ j, { Tables.reset with a := bankIn .pending }.stateOf j = .active ↔ j = .rom) := by
  refine ⟨⟨_, rfl, rfl, by decide +kernel, by decide +kernel, by decide +kernel⟩, ?_, ⟨0, by decide, by decide +kernel⟩, ⟨_, rfl⟩, ?_, ?_, ?_⟩
  · unfold faultedMember; decide +kernel
  all_goals intro j; cases j <;> decide

/-- The evaluation in progress has been discarded, and zone 0 waits. -/
def discardedState : State :=
  { oneZone.setZone 0 (some { zone with expiry := none, dueMark := true }) with
    dueQueue := [0], current := evaluating.current.map fun c => { c with zone := none } }

theorem test_witness_DiscardedCompletionWritesNothing :
    State.reset.current = none
      ∧ (∃ c, discardedState.current = some c ∧ c.zone = none ∧ discardedState.dueQueue = 0 :: []
        ∧ discardedState.zone 0 = some { zone with expiry := none, dueMark := true })
      ∧ (∀ j, discardedState.tables.stateOf j ≠ .pending)
      ∧ (∀ j, { Tables.reset with a := bankIn .pending }.stateOf j = .pending ↔ j = .a)
      ∧ ∀ j, { Tables.reset with a := bankIn .pending }.stateOf j = .active ↔ j = .rom := by
  refine ⟨rfl, ⟨_, rfl, rfl, rfl, by decide +kernel⟩, ?_, ?_, ?_⟩
  all_goals intro j; cases j <;> decide

theorem test_witness_EvaluationFindsMargin :
    ((startedFor oneZone 0 defn).air.filterMap (fun e => e.sample.map fun x => (e.slot, x)) ≠ []
      ∧ (startedFor oneZone 0 defn).surface.filterMap (fun e => e.sample.map fun x => (e.slot, x)) ≠ [])
      ∧ (startedFor State.reset 0 defn).air.filterMap (fun e => e.sample.map fun x => (e.slot, x)) = []
      -- a reading of exactly FRESH_LIMIT still contributes
      ∧ contribution { twoSlots with timeBase := 300 } 0 = some { temp := 2400, rh := some 5000 }
      ∧ contribution { twoSlots with timeBase := 301 } 0 = none := by decide +kernel

theorem test_witness_RawLevelByThresholds :
    1 ≤ { defn with alert := 1, watch := 2 }.alert ∧ { defn with alert := 1, watch := 2 }.alert < 2
      ∧ defn.watch = 300 ∧ defn.alert = 150 ∧ (0 : Int) ≤ 0 ∧ (0 : Int) < 1 ∧ (1 : Int) < defn.alert
      ∧ (defn.alert : Int) ≤ 150 ∧ (299 : Int) < defn.watch ∧ (defn.watch : Int) ≤ 300 := by decide

/-- Zone 0 with a rise run of 1 towards ALERT, or a fall run of 1 towards CLEAR. -/
def watchZone : Zone := { zone with state := .level .watch, defn := { defn with nin := 2 } }
def risingZone : Zone := { watchZone with riseCount := 1, floor := some .alert }
def fallingZone : Zone := { watchZone with fallCount := 1, ceiling := some .clear }

theorem test_witness_QualificationFollowsRuns :
    (watchZone.riseCount = 0 ↔ watchZone.floor = none) ∧ (watchZone.fallCount = 0 ↔ watchZone.ceiling = none)
      ∧ (risingZone.riseCount = 0 ↔ risingZone.floor = none) ∧ (fallingZone.fallCount = 0 ↔ fallingZone.ceiling = none)
      ∧ watchZone.state = .level .watch ∧ { zone with state := .blind }.state = .blind
      -- a raw level above: 149 is ALERT, 0 is DEW
      ∧ Level.watch.rank < (rawLevel defn 149).rank ∧ risingZone.floor = some .alert ∧ (rawLevel defn 0).rank = 3
      -- a release level below: 330 is CLEAR after the hysteresis of 30
      ∧ (rawLevel defn 330).rank ≤ Level.watch.rank ∧ (rawLevel defn (330 - defn.hyst)).rank < Level.watch.rank
      -- neither: 329 and 170
      ∧ (rawLevel defn 329).rank ≤ Level.watch.rank ∧ Level.watch.rank ≤ (rawLevel defn (329 - defn.hyst)).rank
      ∧ (rawLevel defn 170).rank ≤ Level.watch.rank ∧ Level.watch.rank ≤ (rawLevel defn (170 - defn.hyst)).rank := by decide

theorem test_witness_LookupsInterpolate :
    entriesRise [entry 0 611, entry 100 657] ∧ [entry 0 611, entry 100 657].head? = some (entry 0 611)
      ∧ [entry 0 611, entry 100 657].getLast? = some (entry 100 657) ∧ 2 ≤ [entry 0 611, entry 100 657].length
      ∧ (-1 : Int) < (entry 0 611).temp ∧ (entry 100 657).temp ≤ 100 ∧ 610 < (entry 0 611).pressure
      ∧ (entry 100 657).pressure ≤ 657 ∧ [entry 0 611, entry 100 657][0]? = some (entry 0 611)
      ∧ [entry 0 611, entry 100 657][0 + 1]? = some (entry 100 657) ∧ (99 : Int) < (entry 100 657).temp
      ∧ 656 < (entry 100 657).pressure := by
  refine ⟨?_, by decide⟩
  unfold entriesRise; decide

theorem test_witness_SlotsFallDueAndHeatsEnd :
    (twoSlots.slot 0 = some (air 1) ∧ (air 1).due = false ∧ (air 1).state ≠ .heating ∧ (air 1).state ≠ .held
        ∧ reached 50 (air 1).nextDue ∧ ¬reached 49 (air 1).nextDue)
      ∧ (twoSlots.line (air 1).line).state ≠ .fault ∧ ((withLine faultLine twoSlots).line (air 1).line).state = .fault
      ∧ { air 1 with due := true }.due = true
      ∧ ({ air 1 with state := .heating, heatEnd := some 0 }.state = .heating
        ∧ { air 1 with state := .heating, heatEnd := some 0 }.heatEnd = some 0 ∧ reached 0 0)
      ∧ State.reset.slot 0 = none
      ∧ ∀ t, { air 1 with heatEnd := some 1 }.heatEnd = some t → ¬reached 0 t := by
  refine ⟨⟨by decide +kernel, rfl, by decide, by decide, ?_, ?_⟩, by decide +kernel, by decide +kernel, rfl, ⟨rfl, rfl, ?_⟩, slot_reset 0, ?_⟩
  iterate 3 unfold reached; decide
  intro t h; cases h; unfold reached; decide

theorem test_witness_MissesAreCounted :
    twoSlots.slot 0 = some (air 1) ∧ { air 1 with misses := 15 }.misses ≤ 15 ∧ (air 1).state = .live
      ∧ State.reset.params.missLimit ≤ min (3 + 1) 15 ∧ min (2 + 1) 15 < State.reset.params.missLimit
      ∧ { air 1 with state := .lost }.state ≠ .pending ∧ { air 1 with state := .lost }.state ≠ .live
      ∧ onFaultLine twoSlots 0 = false ∧ pollInFlight twoSlots 0 (air 1) = false
      ∧ State.reset.params.pollFast ≤ State.reset.params.pollSettled ∧ State.reset.params.pollSettled ≤ 6000
      ∧ (∃ p, (recompute 0 { handOutcome 0 0 (.miss .silent) twoSlots with zones := oneZone.zones }).slot 0 = some p
          ∧ p.state ≠ .heating ∧ p.state ≠ .held)
      ∧ (∃ p, (handOutcome 0 0 (.miss .silent) (recompute 0 oneZone)).slot 0 = some p ∧ p.state ≠ .heating ∧ p.state ≠ .held)
      ∧ { State.reset.params with pollSettled := 50 }.pollFast = { State.reset.params with pollSettled := 50 }.pollSettled := by
  refine ⟨by decide +kernel, by decide, by decide, by decide +kernel, by decide, by decide, by decide, by decide +kernel, by decide +kernel,
    by decide, by decide, ⟨{ air 1 with misses := 1, lastOutcome := .silent, nextDue := 300, pace := .settled, advancedAt := some 0 }, by decide +kernel⟩,
    ⟨{ air 1 with misses := 1, lastOutcome := .silent, nextDue := 300, pace := .settled, advancedAt := some 0 }, by decide +kernel⟩, rfl⟩

theorem test_witness_GoodRepliesAreTaken :
    twoSlots.slot 0 = some (air 1)
      -- 24.00 °C is held; a step of at most STEP_LIMIT is accepted, a step of 61.00 °C is not
      ∧ plausible twoSlots (air 1) (calibrate twoSlots (air 1) 33554 (some 32768)) = true
      ∧ plausible twoSlots (air 1) (calibrate twoSlots (air 1) 65535 none) = false
      ∧ { air 1 with state := .held }.state = .held ∧ (air 1).state ≠ .held := by decide +kernel

theorem test_witness_ConditioningFollowsRules :
    (255 : Nat) < 256 ∧ (4095 : Nat) < 4096 ∧ (air 1).cls = .c16 ∧ { air 1 with cls := .c8 }.cls = .c8
      ∧ (surface 2).kind = .surface ∧ (air 1).kind = .air ∧ (air 1).reading ≠ none := by decide

/-- A second air slot serves the zone; alone, slot 0 does not. -/
def servedZone : Zone := { zone with defn := { defn with air := [0, 2] } }
def servedState : State := (twoSlots.setSlot 2 (some (air 3))).setZone 0 (some servedZone)

theorem test_witness_HeaterControllerArmsOrDefers :
    servedState.slot 0 = some (air 1) ∧ (air 1).run ≤ 15 ∧ 9799 < State.reset.params.satLimit
      ∧ State.reset.params.satLimit ≤ 9800 ∧ min ((air 1).run + 1) 15 < State.reset.params.satCount
      ∧ State.reset.params.satCount ≤ min (2 + 1) 15 ∧ (air 1).armed = none
      ∧ (∀ z zr, servedState.zone z = some zr → (0 : SlotId) ∈ zr.defn.air → servedWithout servedState 0 zr)
      ∧ (oneZone.zone 0 = some zone ∧ (0 : SlotId) ∈ zone.defn.air ∧ ¬servedWithout oneZone 0 zone
        ∧ ∀ y < (0 : ZoneId), ∀ yr, oneZone.zone y = some yr → (0 : SlotId) ∈ yr.defn.air → servedWithout oneZone 0 yr) := by
  refine ⟨by decide +kernel, by decide, by decide, by decide, by decide, by decide, rfl, ?_, by decide +kernel, by decide, ?_, ?_⟩
  · intro z zr h _
    have hz : servedState.zone z = if 0 = z then some servedZone else none := by
      simp [servedState, zone_setZone, zone_twoSlots]
    rw [hz] at h
    split at h
    · cases h; exact ⟨2, by decide, by decide, by decide +kernel, air 3, by decide +kernel, rfl⟩
    · cases h
  · rintro ⟨m, hm, hn, _⟩
    simp only [zone, defn, List.mem_singleton] at hm
    exact hn hm
  · intro y h; exact absurd h (Fin.not_lt_zero y)

/-- Both slots of line 0 are due, and slot 0 was served last. -/
def dueSlots : State :=
  withLine { idleLine with lastServed := some 0 }
    ((State.reset.setSlot 0 (some { air 1 with due := true })).setSlot 1 (some { surface 2 with due := true }))

theorem test_witness_PollStartSendsToFirstInRing :
    ((dueSlots.line 0).state = .idle ∧ (dueSlots.line 0).activeLevel = false
      ∧ dueSlots.slot 1 = some { surface 2 with due := true } ∧ dueAt dueSlots 0 1
      ∧ ∀ j, dueAt dueSlots 0 j → j ≠ 1 →
          ringPlace (dueSlots.line 0).lastServed 1 < ringPlace (dueSlots.line 0).lastServed j)
      ∧ (surface 2).armed = none ∧ { air 1 with armed := some .forced }.armed ≠ none
      ∧ (twoSlots.line 0).state ≠ .idle ∧ (faultLine).activeLevel = true ∧ ∀ i, ¬dueAt State.reset 0 i := by
  refine ⟨⟨by decide +kernel, by decide +kernel, by decide +kernel, ⟨{ surface 2 with due := true }, by decide +kernel, rfl, rfl, by decide, by decide⟩, ?_⟩,
    rfl, by decide, by decide +kernel, rfl, ?_⟩
  · intro j hj hne
    have hl : (dueSlots.line 0).lastServed = some 0 := by decide +kernel
    rw [hl]
    obtain ⟨r, hr, _⟩ := hj
    have : dueSlots.slot j = if 1 = j then some { surface 2 with due := true }
        else if 0 = j then some { air 1 with due := true } else none := by
      simp [dueSlots, withLine, slot_setSlot, slot_reset]
    rw [this] at hr
    split at hr
    · rename_i h1; exact absurd h1.symm hne
    · split at hr
      · rename_i h0; subst h0; decide
      · cases hr
  · rintro i ⟨r, h, _⟩; rw [slot_reset] at h; cases h

theorem test_witness_TransactionsPassTheirPhases :
    (∀ p, ((withLine (busyLine p) twoSlots).line 0).state = .busy (txn p) ∧ (txn p).phase = p)
      ∧ (busyLine .discarding).activeLevel = false ∧ { busyLine .discarding with activeLevel := true }.activeLevel = true
      ∧ ∀ t, (State.reset.line 0).state ≠ .busy t := by
  refine ⟨by intro p; cases p <;> decide +kernel, rfl, rfl, ?_⟩
  intro t; rw [line_reset]; simp [Line.reset]

theorem test_witness_LineLevelsAreWatched :
    ((State.reset.line 0).activeLevel = false ∧ (State.reset.line 0).state = .off)
      ∧ (idleLine.activeLevel = false ∧ idleLine.state = .idle)
      ∧ ({ faultLine with activeLevel := false }.activeLevel = false ∧ faultLine.state = .fault ∧ faultLine.activeLevel = true)
      ∧ (∀ p, (busyLine p).activeLevel = false ∧ (busyLine p).state = .busy (txn p) ∧ (txn p).phase = p)
      ∧ { txn .receiving with framingWait := true }.framingWait = true
      ∧ (∀ t, idleLine.state = .busy t → t.phase = .receiving → t.framingWait = false) :=
  ⟨by decide +kernel, by decide, by decide, fun _ => ⟨rfl, rfl, rfl⟩, rfl, fun _ h => by cases h⟩

theorem test_witness_ReplyCharactersAreJudged :
    ((busyLine .receiving).state = .busy (txn .receiving) ∧ (txn .receiving).framingWait = false
      ∧ (txn .receiving).received.length = 0 ∧ (txn .receiving).received.length < (txn .receiving).expected + 2
      ∧ markOf .lsbFirst 0b100000001 = true ∧ (valueOf .lsbFirst 0b100000001).toNat = (txn .receiving).address
      ∧ markOf .lsbFirst 0b000000001 = false ∧ (valueOf .lsbFirst 0b100000010).toNat ≠ (txn .receiving).address)
      ∧ ([1] : List Byte).length = 1 ∧ (valueOf .lsbFirst 4).toNat = (txn .receiving).expected
      ∧ (valueOf .lsbFirst 5).toNat ≠ (txn .receiving).expected
      ∧ 2 ≤ ([1, 4] : List Byte).length ∧ ([1, 4, 0, 0, 0] : List Byte).length < (txn .receiving).expected + 2
      ∧ ([1] : List Byte) ≠ [] ∧ (busyLine .receiving).activeLevel = false
      -- characters are ignored on a line in another phase, in none, and after a framing error
      ∧ (∀ t, (busyLine .awaiting).state = .busy t → t.phase = .receiving → t.framingWait = true)
      ∧ (∀ t, idleLine.state = .busy t → t.phase = .receiving → t.framingWait = true)
      ∧ ∀ t, { busyLine .receiving with state := .busy { txn .receiving with framingWait := true } }.state = .busy t →
          t.phase = .receiving → t.framingWait = true := by
  refine ⟨by decide, by decide, by decide, by decide, by decide, by decide, by decide, by decide, ?_, ?_, ?_⟩
  all_goals
    intro t h; cases h
    try decide

theorem test_witness_WholeRepliesAreJudged :
    { txn .receiving with received := [1, 4, 0x80, 0, 0xFF, 0xFF] }.received
        = 1 :: byte (txn .receiving).expected :: [0x80, 0, 0xFF, 0xFF]
      ∧ ([0x80, 0, 0xFF, 0xFF] : List Byte).length = (txn .receiving).expected
      ∧ markOf .lsbFirst ((crc8 [4, 0x80, 0, 0xFF, 0xFF]).setWidth 9) = false
      ∧ crc8 (byte (txn .receiving).expected :: [0x80, 0, 0xFF, 0xFF]) = valueOf .lsbFirst ((crc8 [4, 0x80, 0, 0xFF, 0xFF]).setWidth 9)
      ∧ crc8 (byte (txn .receiving).expected :: [0x80, 0, 0xFF, 0xFF]) ≠ valueOf .lsbFirst 0
      ∧ { txn .receiving with command := .heat 20, expected := 1, received := [1, 1, 20] }.received = 1 :: byte 1 :: [20]
      ∧ (txn .receiving).command = .read ∧ (txn .receiving).cls ≠ .c8 ∧ { txn .receiving with cls := .c8 }.cls = .c8
      ∧ ∀ t, (busyLine .discarding).state = .busy t → t.phase = .receiving → t.framingWait = true := by
  repeat' apply And.intro
  any_goals decide +kernel
  intro t h; cases h; decide

theorem test_witness_LinesEnterFaultAndRecover :
    (idleLine.state = .idle ∧ { idleLine with activeLevel := true, activeStretch := true }.activeStretch = true)
      ∧ (∃ t, (busyLine .receiving).state = .busy t) ∧ idleLine.activeStretch = false ∧ (Line.reset false).state = .off
      ∧ (faultLine.state = .fault ∧ { faultLine with activeLevel := false, restStretch := true }.restStretch = true)
      ∧ faultLine.restStretch = false := by
  refine ⟨by decide, ⟨_, rfl⟩, by decide⟩

theorem test_witness_CheckComputationsFollowSteps :
    { txn .receiving with command := .heat 20, received := [1, 0x01, 0x14] }.command = .heat 20
      ∧ { txn .receiving with command := .heat 20, received := [1, 0x01, 0x14] }.received = [1, 0x01, 0x14] := ⟨rfl, rfl⟩

/-! #### States that obey the laws, with a step from each -/

/-- The state with a tick at the front of its queue: the step from it answers the state one tick later. -/
def ticking (s : State) : State := { s with pending := [.timeBaseTick] }

theorem step_ticking (s : State) : step (ticking s) = .next { s with pending := [], timeBase := s.timeBase + 1 } := rfl

theorem test_witness_StepKeepsParamsAndQueueLaws : ParamsLaw (ticking fullQueue) ∧ QueueLaw (ticking fullQueue) := by
  refine ⟨⟨?_, by decide, by decide⟩, ?_⟩
  · intro q; cases q <;> decide
  · unfold QueueLaw; decide +kernel

theorem bankLaw_bankIn (st : BankState) (h : st = .loaded ∨ st = .pending ∨ st = .active ∨ st = .standby) :
    BankLaw (bankIn st) := by
  have hr : entriesRise [entry 0 611, entry 100 657] := by unfold entriesRise; decide
  rcases h with rfl | rfl | rfl | rfl
  · exact ⟨by decide, by decide, by decide, rfl⟩
  all_goals exact ⟨by decide, by decide, by decide, rfl, hr⟩

/-- Bank A is LOADING and bank B STANDBY, with the evaluator idle. -/
def lawfulTables : State := { State.reset with tables := { loadingTables with b := bankIn .standby } }

theorem test_witness_StepKeepsTablesLaw : TablesLaw (ticking lawfulTables) := by
  refine ⟨.inr (.inl rfl), ⟨by decide, by decide, by decide⟩, bankLaw_bankIn .standby (by simp), by decide, by decide, by decide,
    ⟨_, _, rfl, rfl, rfl, rfl, by decide⟩, ?_, ?_⟩
  · intro c h; cases h
  · intro h; exact absurd (by decide) h

theorem zone_evaluating (z : ZoneId) :
    evaluating.zone z = if 0 = z then some { zone with expiry := none } else none := by
  simp only [evaluating]
  show (oneZone.setZone 0 (some { zone with expiry := none })).zone z = _
  rw [zone_setZone]
  split
  · rfl
  · rw [zone_oneZone]; simp_all

theorem test_witness_StepKeepsCycleLaw : CycleLaw (ticking evaluating) := by
  have hz : ∀ z, (ticking evaluating).zone z = if 0 = z then some { zone with expiry := none } else none := zone_evaluating
  refine ⟨List.nodup_nil, ?_, ?_, ?_, fun h => absurd h (by simp [ticking, evaluating])⟩
  · intro z
    rw [hz]
    constructor
    · intro h; cases h
    · rintro ⟨r, h, hd⟩
      split at h
      · cases h; cases hd
      · cases h
  · rintro z ⟨c, hc, hcz⟩
    cases hc; cases hcz
    exact ⟨{ zone with expiry := none }, by rw [hz]; rfl, rfl, rfl⟩
  · intro z r h hn
    rw [hz] at h
    split at h
    · rename_i h0; subst h0; exact absurd ⟨_, rfl, rfl⟩ hn
    · cases h

theorem test_witness_StepKeepsRunsLaw : CycleLaw (ticking evaluating) ∧ RunsLaw (ticking evaluating) := by
  refine ⟨test_witness_StepKeepsCycleLaw, ?_⟩
  have hz : ∀ z, (ticking evaluating).zone z = if 0 = z then some { zone with expiry := none } else none := zone_evaluating
  refine ⟨?_, ?_⟩
  · intro z r h
    rw [hz] at h
    split at h
    · cases h
      refine ⟨by unfold ZoneDef.Valid; decide, by decide, by decide, by decide, by decide, by decide, ?_, ?_, by decide⟩
      · intro l hl; cases hl
      · intro l hl; cases hl
    · cases h
  · intro c z r hc hcz h
    cases hc; cases hcz
    rw [hz] at h; cases h; rfl

theorem test_witness_StepKeepsLinesLaw : LinesLaw (ticking (withLine (busyLine .sending) twoSlots)) := by
  intro l
  have hl : (ticking (withLine (busyLine .sending) twoSlots)).line l = if 0 = l then busyLine .sending else Line.reset false := by
    show (twoSlots.setLine 0 (busyLine .sending)).line l = _
    rw [line_setLine]
    split
    · rfl
    · exact line_reset l
  rw [hl]
  split
  · refine ⟨by decide, by decide, by decide, ?_, by decide, by decide, by decide, by decide⟩
    intro t h; cases h; decide
  · refine ⟨by decide, by decide, by decide, ?_, by decide, by decide, by decide, by decide⟩
    intro t h; cases h

theorem valid_air : (air 1).Valid := by
  refine ⟨by decide, by decide, by decide, by decide, by decide, by decide, by decide, by decide, ?_, by decide, by decide,
    by decide, by decide, by decide, by decide⟩
  intro rd h; cases h
  exact ⟨by decide, by decide, fun h e => by cases e; decide⟩

theorem valid_surface : (surface 2).Valid := by
  refine ⟨by decide, by decide, by decide, by decide, by decide, by decide, by decide, by decide, ?_, by decide, by decide,
    by decide, by decide, by decide, by decide⟩
  intro rd h; cases h
  exact ⟨by decide, by decide, fun h e => by cases e⟩

theorem test_witness_StepKeepsSlotsLaw : SlotsLaw (ticking twoSlots) := by
  have hs : ∀ i, (ticking twoSlots).slot i = if 1 = i then some (surface 2) else if 0 = i then some (air 1) else none :=
    slot_twoSlots
  refine ⟨?_, ?_, ?_⟩
  · intro i r h
    rw [hs] at h
    split at h
    · cases h; exact valid_surface
    · split at h
      · cases h; exact valid_air
      · cases h
  · intro i j r q hi hj _ ha
    rw [hs] at hi hj
    split at hi <;> split at hj <;> try split at hi
    all_goals try split at hj
    all_goals simp_all
    all_goals subst hi; subst hj; simp [air, surface] at ha
  · intro l t h
    have : (ticking twoSlots).line l = Line.reset false := line_reset l
    rw [this] at h; cases h

theorem test_witness_StepKeepsMembershipLaw : MembershipLaw (ticking oneZone) := by
  have hz : ∀ z, (ticking oneZone).zone z = if 0 = z then some zone else none := zone_oneZone
  refine ⟨?_, by decide +kernel, by decide +kernel⟩
  intro z r h
  rw [hz] at h
  split at h
  · cases h
    refine ⟨fun m hm => ?_, fun m hm => ?_⟩
    · simp only [zone, defn, List.mem_singleton] at hm; subst hm; exact ⟨air 1, by decide +kernel, rfl⟩
    · simp only [zone, defn, List.mem_singleton] at hm; subst hm; exact ⟨surface 2, by decide +kernel, rfl⟩
  · cases h

theorem test_witness_StepKeepsLinkLaw : LinkLaw (ticking sending) ∧ LinkLaw (ticking receiving) ∧ LinkLaw (ticking resulting) := by
  refine ⟨?_, ?_, ?_⟩
  all_goals
    refine ⟨by decide, by decide, by decide, by decide, by decide, ?_, ?_, ?_⟩
    · intro x h; cases h
      refine ⟨by decide, by decide, by decide, ?_⟩
      intro f hf; cases hf <;> decide
    · intro p h; cases h
    · intro h; exact absurd rfl h

end Sys2Proof.Tests
end

section
/-! Risk levels: the raw level of a margin by the thresholds of the definition (R33), and the order it follows. -/

namespace Sys2Proof.Machine

/-! ### The four bands of R33 -/

theorem rawLevel_of_nonpos (d : ZoneDef) {m : Int} (h : m ≤ 0) : rawLevel d m = .dew := if_pos h

theorem rawLevel_of_lt_alert (d : ZoneDef) {m : Int} (hpos : 0 < m) (h : m < d.alert) : rawLevel d m = .alert := by
  rw [rawLevel, if_neg (Int.not_le.mpr hpos), if_pos h]

theorem rawLevel_of_lt_watch {d : ZoneDef} {m : Int} (hA : 1 ≤ d.alert) (hm : d.alert ≤ m) (h : m < d.watch) :
    rawLevel d m = .watch := by
  have hpos : ¬ m ≤ 0 := by omega
  rw [rawLevel, if_neg hpos, if_neg (Int.not_lt.mpr hm), if_pos h]

theorem rawLevel_of_watch_le {d : ZoneDef} {m : Int} (hA : 1 ≤ d.alert) (hAW : d.alert < d.watch) (h : d.watch ≤ m) :
    rawLevel d m = .clear := by
  have hpos : ¬ m ≤ 0 := by omega
  have hm : ¬ m < d.alert := by omega
  rw [rawLevel, if_neg hpos, if_neg hm, if_neg (Int.not_lt.mpr h)]

/-! ### The order of raw levels -/

theorem Level.rank_le_dew (l : Level) : l.rank ≤ Level.dew.rank := by cases l <;> decide

theorem Level.clear_rank_le (l : Level) : Level.clear.rank ≤ l.rank := Nat.zero_le _

/-- Whatever the thresholds, a lower margin meets each of the tests of R33 that a higher one meets, so its level stands no
lower in the risk order. -/
theorem rank_rawLevel_antitone (d : ZoneDef) {n m : Int} (hnm : n ≤ m) :
    (rawLevel d m).rank ≤ (rawLevel d n).rank := by
  by_cases hn : n ≤ 0
  · rw [rawLevel_of_nonpos d hn]
    exact Level.rank_le_dew _
  have hm : ¬ m ≤ 0 := fun h => hn (Int.le_trans hnm h)
  by_cases hnA : n < d.alert
  · -- `n` is ALERT, and `m`, above 0 too, is not DEW
    rw [rawLevel_of_lt_alert d (Int.not_le.mp hn) hnA, rawLevel, if_neg hm]
    split
    · decide
    · split <;> decide
  have hmA : ¬ m < d.alert := fun h => hnA (Int.lt_of_le_of_lt hnm h)
  by_cases hnW : n < d.watch
  · -- `n` is WATCH, and `m`, not below the alert threshold either, is WATCH or CLEAR
    rw [rawLevel, rawLevel, if_neg hm, if_neg hn, if_neg hmA, if_neg hnA, if_pos hnW]
    split <;> decide
  · have hmW : ¬ m < d.watch := fun h => hnW (Int.lt_of_le_of_lt hnm h)
    have hclear : rawLevel d m = .clear := by rw [rawLevel, if_neg hm, if_neg hmA, if_neg hmW]
    rw [hclear]
    exact Level.clear_rank_le _

/-- Settles O37: the four bands, the order, and the manual's example read off the bands. -/
theorem rawLevelByThresholds : Obligations.RawLevelByThresholds := by
  refine ⟨fun d m hA hAW => ⟨rawLevel_of_nonpos d, rawLevel_of_lt_alert d, rawLevel_of_lt_watch hA,
    rawLevel_of_watch_le hA hAW, fun n hnm => rank_rawLevel_antitone d hnm⟩, fun d hW hA => ?_⟩
  have hA1 : 1 ≤ d.alert := by omega
  have hAW : d.alert < d.watch := by omega
  refine ⟨rawLevel_of_watch_le hA1 hAW ?_, rawLevel_of_lt_watch hA1 ?_ ?_,
    rawLevel_of_lt_watch hA1 ?_ ?_, rawLevel_of_lt_alert d ?_ ?_, rawLevel_of_lt_alert d ?_ ?_,
    rawLevel_of_nonpos d (Int.le_refl 0)⟩
  all_goals omega

end Sys2Proof.Machine
end

section
/-! Lookups in a validated saturation table: the forward lookup (R68) and the inverse lookup (R69) clamp outside the table's points
and follow the straight line, rounded down, between two neighbouring points. -/

namespace Sys2Proof.Machine

/-! ### Lookups in any list of entries -/

theorem forwardFrom_append {e x : Entry} {pre post : List Entry} {t : Int}
    (hpre : ∀ n ∈ pre, n.temp ≤ t) (hx : x.temp ≤ t) :
    forwardFrom e (pre ++ x :: post) t = forwardFrom x post t := by
  induction pre generalizing e with
  | nil => exact if_neg (Int.not_lt.mpr hx)
  | cons n pre ih =>
    obtain ⟨hn, hrest⟩ := List.forall_mem_cons.mp hpre
    exact (if_neg (Int.not_lt.mpr hn)).trans (ih hrest)

theorem inverseFrom_append {e x : Entry} {pre post : List Entry} {p : Nat}
    (hpre : ∀ n ∈ pre, n.pressure ≤ p) (hx : x.pressure ≤ p) :
    inverseFrom e (pre ++ x :: post) p = inverseFrom x post p := by
  induction pre generalizing e with
  | nil => exact if_neg (Nat.not_lt.mpr hx)
  | cons n pre ih =>
    obtain ⟨hn, hrest⟩ := List.forall_mem_cons.mp hpre
    exact (if_neg (Nat.not_lt.mpr hn)).trans (ih hrest)

/-- A forward lookup passes over every point at or below the temperature and goes on from the last of them. -/
theorem forwardLookup_append {x : Entry} {pre post : List Entry} {t : Int}
    (hpre : ∀ n ∈ pre, n.temp ≤ t) (hx : x.temp ≤ t) :
    forwardLookup (pre ++ x :: post) t = ((forwardFrom x post t).1.toNat, (forwardFrom x post t).2) := by
  cases pre with
  | nil => exact if_neg (Int.not_lt.mpr hx)
  | cons n pre =>
    obtain ⟨hn, hrest⟩ := List.forall_mem_cons.mp hpre
    rw [List.cons_append, forwardLookup, if_neg (Int.not_lt.mpr hn), forwardFrom_append hrest hx]

/-- An inverse lookup passes over every entry at or below the pressure and goes on from the last of them. -/
theorem inverseLookup_append {x : Entry} {pre post : List Entry} {p : Nat}
    (hpre : ∀ n ∈ pre, n.pressure ≤ p) (hx : x.pressure ≤ p) :
    inverseLookup (pre ++ x :: post) p = inverseFrom x post p := by
  cases pre with
  | nil => exact if_neg (Nat.not_lt.mpr hx)
  | cons n pre =>
    obtain ⟨hn, hrest⟩ := List.forall_mem_cons.mp hpre
    rw [List.cons_append, inverseLookup, if_neg (Nat.not_lt.mpr hn), inverseFrom_append hrest hx]

/-! ### The straight line rounded down

The model divides integers; the manual's floor of quantities that are not negative is the division of naturals. -/

theorem mul_ediv_eq_natCast {a b c : Int} (ha : 0 ≤ a) (hb : 0 ≤ b) (hc : 0 ≤ c) :
    a * b / c = ((a.toNat * b.toNat / c.toNat : Nat) : Int) := by
  rw [Int.natCast_ediv, Int.natCast_mul, Int.toNat_of_nonneg ha, Int.toNat_of_nonneg hb, Int.toNat_of_nonneg hc]

theorem forwardFrom_cons_of_between {x y : Entry} {post : List Entry} {t : Int} (hp : x.pressure ≤ y.pressure)
    (hx : x.temp ≤ t) (hy : t < y.temp) :
    forwardFrom x (y :: post) t =
      (((x.pressure + (y.pressure - x.pressure) * (t - x.temp).toNat / (y.temp - x.temp).toNat : Nat) : Int), false) := by
  rw [forwardFrom, if_pos hy, mul_ediv_eq_natCast (by omega) (by omega) (by omega), Int.toNat_sub, Int.natCast_add]

theorem inverseFrom_cons_of_between {x y : Entry} {post : List Entry} {p : Nat} (ht : x.temp ≤ y.temp)
    (hx : x.pressure ≤ p) (hy : p < y.pressure) :
    inverseFrom x (y :: post) p =
      (x.temp + (((y.temp - x.temp).toNat * (p - x.pressure) / (y.pressure - x.pressure) : Nat) : Int), false) := by
  rw [inverseFrom, if_pos hy, mul_ediv_eq_natCast (by omega) (by omega) (by omega), Int.toNat_sub, Int.toNat_sub]

/-! ### Tables whose entries rise -/

/-- Every entry before `x` stands below it in both elements, and every entry after it above. -/
theorem entriesRise_append_cons {pre post : List Entry} {x : Entry} (h : entriesRise (pre ++ x :: post)) :
    (∀ n ∈ pre, n.temp < x.temp ∧ n.pressure < x.pressure)
      ∧ ∀ n ∈ post, x.temp < n.temp ∧ x.pressure < n.pressure := by
  obtain ⟨hrise, -⟩ := h
  obtain ⟨-, htail, hcross⟩ := List.pairwise_append.mp hrise
  exact ⟨fun n hn => hcross n hn x List.mem_cons_self, (List.pairwise_cons.mp htail).1⟩

theorem eq_append_of_neighbours {es : List Entry} {i : Nat} {x y : Entry} (hx : es[i]? = some x)
    (hy : es[i + 1]? = some y) : ∃ pre post, es = pre ++ x :: y :: post := by
  obtain ⟨hi, rfl⟩ := List.getElem?_eq_some_iff.mp hx
  obtain ⟨hj, rfl⟩ := List.getElem?_eq_some_iff.mp hy
  refine ⟨es.take i, es.drop (i + 2), ?_⟩
  rw [← List.drop_eq_getElem_cons hj, ← List.drop_eq_getElem_cons hi, List.take_append_drop]

section
variable {es : List Entry} {first last x y : Entry} {i : Nat}

theorem forwardLookup_of_lt_first (hfirst : es.head? = some first) {t : Int} (ht : t < first.temp) :
    forwardLookup es t = (first.pressure, true) := by
  obtain ⟨rest, rfl⟩ := List.head?_eq_some_iff.mp hfirst
  exact if_pos ht

theorem inverseLookup_of_lt_first (hfirst : es.head? = some first) {p : Nat} (hp : p < first.pressure) :
    inverseLookup es p = (first.temp, true) := by
  obtain ⟨rest, rfl⟩ := List.head?_eq_some_iff.mp hfirst
  exact if_pos hp

theorem forwardLookup_of_last_le (hrise : entriesRise es) (hlast : es.getLast? = some last) {t : Int}
    (ht : last.temp ≤ t) : forwardLookup es t = (last.pressure, true) := by
  obtain ⟨pre, rfl⟩ := List.getLast?_eq_some_iff.mp hlast
  obtain ⟨hbelow, -⟩ := entriesRise_append_cons hrise
  exact forwardLookup_append (fun n hn => Int.le_trans (Int.le_of_lt (hbelow n hn).1) ht) ht

theorem inverseLookup_of_last_le (hrise : entriesRise es) (hlast : es.getLast? = some last) {p : Nat}
    (hp : last.pressure ≤ p) : inverseLookup es p = (last.temp, true) := by
  obtain ⟨pre, rfl⟩ := List.getLast?_eq_some_iff.mp hlast
  obtain ⟨hbelow, -⟩ := entriesRise_append_cons hrise
  exact inverseLookup_append (fun n hn => Nat.le_trans (Nat.le_of_lt (hbelow n hn).2) hp) hp

theorem forwardLookup_of_between (hrise : entriesRise es) (hx : es[i]? = some x) (hy : es[i + 1]? = some y) {t : Int}
    (hxt : x.temp ≤ t) (hty : t < y.temp) : forwardLookup es t =
      (x.pressure + (y.pressure - x.pressure) * (t - x.temp).toNat / (y.temp - x.temp).toNat, false) := by
  obtain ⟨pre, post, rfl⟩ := eq_append_of_neighbours hx hy
  obtain ⟨hbelow, habove⟩ := entriesRise_append_cons hrise
  have hxy : x.pressure < y.pressure := (habove y List.mem_cons_self).2
  rw [forwardLookup_append (fun n hn => Int.le_trans (Int.le_of_lt (hbelow n hn).1) hxt) hxt,
    forwardFrom_cons_of_between (Nat.le_of_lt hxy) hxt hty, Int.toNat_natCast]

theorem inverseLookup_of_between (hrise : entriesRise es) (hx : es[i]? = some x) (hy : es[i + 1]? = some y) {p : Nat}
    (hxp : x.pressure ≤ p) (hpy : p < y.pressure) : inverseLookup es p =
      (x.temp + (((y.temp - x.temp).toNat * (p - x.pressure) / (y.pressure - x.pressure) : Nat) : Int), false) := by
  obtain ⟨pre, post, rfl⟩ := eq_append_of_neighbours hx hy
  obtain ⟨hbelow, habove⟩ := entriesRise_append_cons hrise
  have hxy : x.temp < y.temp := (habove y List.mem_cons_self).1
  rw [inverseLookup_append (fun n hn => Nat.le_trans (Nat.le_of_lt (hbelow n hn).2) hxp) hxp,
    inverseFrom_cons_of_between (Int.le_of_lt hxy) hxp hpy]

/-- At a point other than the last the straight line to the next point has gained nothing. -/
theorem forwardLookup_of_point (hrise : entriesRise es) (hx : es[i]? = some x) (hy : es[i + 1]? = some y) :
    forwardLookup es x.temp = (x.pressure, false) := by
  have hxy : x.temp < y.temp := by
    obtain ⟨pre, post, rfl⟩ := eq_append_of_neighbours hx hy
    exact ((entriesRise_append_cons hrise).2 y List.mem_cons_self).1
  rw [forwardLookup_of_between hrise hx hy (Int.le_refl _) hxy]
  simp

end

/-! ### Bank ROM (R51) -/

theorem entriesRise_romEntries : entriesRise romEntries := by
  unfold entriesRise
  decide

/-- The entries of ROM at 22.00 °C and 24.00 °C, between which the manual's 23.01 °C lies, and the one after them. -/
theorem romEntries_neighbours :
    romEntries[16]? = some ⟨2200, 2637⟩ ∧ romEntries[17]? = some ⟨2400, 2977⟩ ∧ romEntries[18]? = some ⟨2600, 3353⟩ :=
  ⟨rfl, rfl, rfl⟩

/-- Settles O39: each clause by its own lemma above, and the manual's examples read off those lemmas in ROM. -/
theorem lookupsInterpolate : Obligations.LookupsInterpolate := by
  refine ⟨fun es first last hrise hfirst hlast _ => ?_, by decide, entriesRise_romEntries, by decide, ?_⟩
  · have hpos : 1 ≤ first.pressure := hrise.2 first (List.mem_of_head? hfirst)
    exact ⟨fun t => forwardLookup_of_lt_first hfirst, fun t => forwardLookup_of_last_le hrise hlast,
      fun p => inverseLookup_of_lt_first hfirst, fun p => inverseLookup_of_last_le hrise hlast,
      inverseLookup_of_lt_first hfirst hpos,
      fun i x y hx hy => ⟨fun t => forwardLookup_of_between hrise hx hy, forwardLookup_of_point hrise hx hy,
        fun p => inverseLookup_of_between hrise hx hy⟩⟩
  · obtain ⟨h16, h17, h18⟩ := romEntries_neighbours
    have hfirst : romEntries.head? = some ⟨-1000, 287⟩ := rfl
    have hlast : romEntries.getLast? = some ⟨5200, 13630⟩ := rfl
    exact ⟨forwardLookup_of_point entriesRise_romEntries h17 h18,
      forwardLookup_of_last_le entriesRise_romEntries hlast (Int.le_refl 5200),
      forwardLookup_of_lt_first hfirst (by decide),
      forwardLookup_of_between entriesRise_romEntries h16 h17 (by decide) (by decide),
      inverseLookup_of_between entriesRise_romEntries h16 h17 (by decide) (by decide)⟩

end Sys2Proof.Machine
end

section
/-! Check computations on the wire: a shift tests the bit it shifts out (R194, R195), and a reply is judged by its CRC-8 before its
values are looked at (R132). -/

namespace Sys2Proof.Machine

/-! ### One shift of a register -/

/-- The bit that a shift moves out of a register is 1 exactly when the register stands in the upper half of its range. -/
theorem getLsbD_last_iff {n : Nat} (reg : BitVec (n + 1)) : reg.getLsbD n = true ↔ 2 ^ n ≤ reg.toNat := by
  have hmsb : reg.getLsbD n = decide (2 ^ n ≤ reg.toNat) :=
    (BitVec.msb_eq_getLsbD_last reg).symm.trans (BitVec.msb_eq_decide reg)
  rw [hmsb, decide_eq_true_iff]

theorem crc8Shift_eq_ite (reg : Byte) :
    crc8Shift reg = if 128 ≤ reg.toNat then (reg <<< 1) ^^^ 0x31 else reg <<< 1 :=
  ite_congr (propext (getLsbD_last_iff reg)) (fun _ => rfl) fun _ => rfl

theorem crc16Shift_eq_ite (reg : Word16) :
    crc16Shift reg = if 32768 ≤ reg.toNat then (reg <<< 1) ^^^ 0x1021 else reg <<< 1 :=
  ite_congr (propext (getLsbD_last_iff reg)) (fun _ => rfl) fun _ => rfl

/-! ### Repeated shifts, and one more value -/

theorem crc8Byte_eq_foldl (reg b : Byte) :
    crc8Byte reg b = (List.range 8).foldl (fun reg _ => crc8Shift reg) (reg ^^^ b) := rfl

theorem crc16Byte_eq_foldl (reg : Word16) (b : Byte) :
    crc16Byte reg b = (List.range 8).foldl (fun reg _ => crc16Shift reg) (reg ^^^ (b.setWidth 16 <<< 8)) := rfl

/-- The CRC-8 takes one more value by exclusive-or and eight shifts. -/
theorem crc8_append_singleton (values : List Byte) (v : Byte) :
    crc8 (values ++ [v]) = (List.range 8).foldl (fun reg _ => crc8Shift reg) (crc8 values ^^^ v) :=
  (List.foldl_append (f := crc8Byte)).trans (crc8Byte_eq_foldl _ _)

/-- The CRC-16 takes one more byte into its upper half by exclusive-or and eight shifts. -/
theorem crc16From_append_singleton (start : Word16) (bytes : List Byte) (b : Byte) :
    crc16From start (bytes ++ [b]) =
      (List.range 8).foldl (fun reg _ => crc16Shift reg) (crc16From start bytes ^^^ (b.setWidth 16 <<< 8)) :=
  (List.foldl_append (f := crc16Byte)).trans (crc16Byte_eq_foldl _ _)

/-! ### The manual's heat reply -/

theorem crc8_length_one : crc8 [0x01] = 0x9D := by decide

/-- The register after each of the eight shifts of 0x89 (R195). -/
theorem crc8Shift_trace : [1, 2, 3, 4, 5, 6, 7, 8].map (fun n => (List.range n).foldl (fun reg _ => crc8Shift reg) 0x89)
    = [0x23, 0x46, 0x8C, 0x29, 0x52, 0xA4, 0x79, 0xF2] := by decide

theorem crc8_heat_twenty : crc8 [0x01, 0x14] = 0xF2 := by
  calc crc8 ([0x01] ++ [0x14])
    _ = (List.range 8).foldl (fun reg _ => crc8Shift reg) (crc8 [0x01] ^^^ 0x14) := crc8_append_singleton [0x01] 0x14
    _ = (List.range 8).foldl (fun reg _ => crc8Shift reg) 0x89 := by rw [crc8_length_one]; rfl
    _ = 0xF2 := by decide

/-! ### The judgement of a reply by its check character -/

section
variable {t : Txn} {address check : Byte} {values : List Byte}

theorem judgeReply_of_check_ne (hrec : t.received = address :: values) (h : crc8 values ≠ check) :
    judgeReply t check = .miss .badCheck := by
  rw [judgeReply, hrec]
  exact if_pos h

/-- A reply whose check is right may still miss, but never as BAD_CHECK: a HEAT reply is GOOD or MALFORMED by its echo, a READ
reply by the range of its fields. -/
theorem judgeReply_ne_badCheck (hrec : t.received = address :: values) (h : crc8 values = check) :
    judgeReply t check ≠ .miss .badCheck := by
  have hcheck : ¬ crc8 (t.received.drop 1) ≠ check := by rw [hrec]; exact not_not_intro h
  simp only [judgeReply, if_neg hcheck]
  cases t.command with
  | heat d => dsimp only; split <;> exact nofun
  | read => dsimp only; split <;> exact nofun

theorem judgeReply_eq_badCheck_iff (hrec : t.received = address :: values) :
    judgeReply t check = .miss .badCheck ↔ crc8 values ≠ check :=
  ⟨fun hbad h => judgeReply_ne_badCheck hrec h hbad, judgeReply_of_check_ne hrec⟩

/-- A HEAT reply with the right check whose one payload value echoes the duration is GOOD. -/
theorem judgeReply_heat_of_echo {len echo : Byte} (hcmd : t.command = .heat echo.toNat)
    (hrec : t.received = [address, len, echo]) (h : crc8 [len, echo] = check) : judgeReply t check = .goodHeat := by
  have hcheck : ¬ crc8 (t.received.drop 1) ≠ check := by rw [hrec]; exact not_not_intro h
  simp only [judgeReply, if_neg hcheck, hcmd]
  rw [hrec]
  exact if_pos rfl

end

/-- The manual's heat reply, echoing 20 s, is GOOD with its check 0xF2 and BAD_CHECK with any other. -/
theorem judgeReply_heat_twenty {t : Txn} {address : Byte} (check : Byte) (hcmd : t.command = .heat 20)
    (hrec : t.received = [address, 0x01, 0x14]) :
    judgeReply t check = if check = 0xF2 then .goodHeat else .miss .badCheck := by
  split
  next h => exact judgeReply_heat_of_echo (echo := 0x14) hcmd hrec (crc8_heat_twenty.trans h.symm)
  next h => exact judgeReply_of_check_ne hrec fun hcrc => h (hcrc.symm.trans crc8_heat_twenty)

/-! ### The manual's examples of the CRC-16 -/

theorem crc16_digits : crc16 [0x31, 0x32, 0x33, 0x34, 0x35, 0x36, 0x37, 0x38, 0x39] = 0x29B1 := by
  decide +kernel

theorem crc16_zero : crc16 [0x00] = 0xE1F0 := by decide

/-- Settles O51: both computations take a value by shifts that test the upper half of the register, and the judgement of a reply
turns on the CRC-8 of its values. -/
theorem checkComputationsFollowSteps : Obligations.CheckComputationsFollowSteps := by
  unfold Obligations.CheckComputationsFollowSteps
  simp only [← crc8Shift_eq_ite, ← crc16Shift_eq_ite]
  exact ⟨⟨rfl, crc8_append_singleton, crc8_length_one, crc8_heat_twenty, rfl, crc8Shift_trace,
      fun _ _ _ _ hrec => judgeReply_eq_badCheck_iff hrec, fun _ _ check hcmd hrec => judgeReply_heat_twenty check hcmd hrec⟩,
    rfl, crc16From_append_singleton, fun _ => rfl, fun _ => rfl, crc16_digits, crc16_zero⟩

end Sys2Proof.Machine
end

section
/-! What keeps a law along a step: a law that every effect keeps, and that does not speak of the queue of commands, is kept by every
step. First the parameters and the notice queue (R156, R159, R177, R178). -/

namespace Sys2Proof.Machine

/-- A step is the command at the front of the queue, so a law that every effect keeps is kept by every step. -/
theorem step_keeps {P : State → Prop} (hpending : ∀ s q, P s → P { s with pending := q })
    (heffect : ∀ s t, Effect s t → P s → P t) {s t : State} (hs : P s) (hstep : step s = .next t) : P t := by
  unfold step at hstep
  split at hstep
  · cases hstep; exact hs
  · exact (exec_effects hstep).keep heffect (hpending s _ hs)

/-- A slot is written, and given its miss where its line is in FAULT. -/
theorem missIfFaulted_setSlot_probesOnly (i : SlotId) (r : Option Slot) (s : State) :
    ProbesOnly s (missIfFaulted i (s.setSlot i r)) :=
  (setSlot_probesOnly i r s).trans (missIfFaulted_probesOnly _ _)

/-! ### The parameters -/

/-- A write that is taken puts a value in its range, paired with its partner, and leaves the other parameters. -/
theorem Params.write_spec {p p' : Params} {q : Param} {v : Nat} (h : p.write q v = some p') :
    q.admits p v ∧ p'.get q = v ∧ ∀ o, o ≠ q → p'.get o = p.get o := by
  cases q
  case policy =>
    obtain ⟨k, hk, rfl⟩ := Option.map_eq_some_iff.mp h
    have hv : k.code = v ∧ v ≤ 1 := by
      unfold policyOfCode at hk
      split at hk <;> cases hk <;> exact ⟨rfl, by decide⟩
    refine ⟨⟨Nat.zero_le _, hv.2, trivial⟩, hv.1, fun o => ?_⟩
    cases o <;> simp [Params.get]
  all_goals
    unfold Params.write at h
    dsimp only at h
    split at h
    next hr =>
      cases h
      refine ⟨?_, rfl, fun o => ?_⟩
      · simpa [Param.admits, Param.range, inRange, and_assoc] using hr
      · cases o <;> simp [Params.get]
    next => cases h

/-- The parameters after an effect: as they were, one of them written, or at their defaults. -/
theorem Effect.params_cases {s t : State} (e : Effect s t) :
    t.params = s.params ∨ (∃ q v, s.params.write q v = some t.params) ∨ t.params = .defaults := by
  cases e
  case params q v p h => exact .inr (.inl ⟨q, v, h⟩)
  case reset => exact .inr (.inr rfl)
  case restart => exact .inr (.inr rfl)
  case enrol => exact .inl (missIfFaulted_probesOnly _ _).params
  case release => exact .inl (missIfFaulted_probesOnly _ _).params
  case define => exact .inl (defineZone_cycleOnly _ _ _).params
  case close => exact .inl (closeZone_cycleOnly _ _ _).params
  case commit => exact .inl (makePending_cycleOnly _ _).params
  case select => exact .inl (makePending_cycleOnly _ _).params
  case expiry => exact .inl (joinDueQueue_cycleOnly _ _).params
  case completion => exact .inl (completeEvaluation_cycleOnly _ _).params
  case due => exact .inl (missIfFaulted_probesOnly _ _).params
  case heatEnd => exact .inl (endHeat_probesOnly _ _ _).params
  case early => exact .inl (complete_linesOnly _ _ _ _ _ _).params
  case whole => exact .inl (complete_linesOnly _ _ _ _ _ _).params
  case fault => exact .inl (enterFault_linesOnly _ _ _).params
  case recovery => exact .inl (emit_noticesOnly _ _).params
  all_goals exact .inl rfl

theorem paramsLaw_of_params {s t : State} (h : t.params = s.params) : ParamsLaw s → ParamsLaw t := by
  unfold ParamsLaw; rw [h]; exact id

theorem paramsLaw_of_defaults {t : State} (h : t.params = .defaults) : ParamsLaw t := by
  unfold ParamsLaw; rw [h]
  exact ⟨fun q => by cases q <;> decide, by decide, by decide⟩

/-- PARAM-SET keeps every parameter in its range, and a partner is compared with the present value of the other. -/
theorem paramsLaw_of_write {s t : State} {q : Param} {v : Nat} (h : s.params.write q v = some t.params) :
    ParamsLaw s → ParamsLaw t := by
  rintro ⟨hrange, hpoll, heval⟩
  obtain ⟨⟨hlo, hhi, hpair⟩, hget, hother⟩ := Params.write_spec h
  refine ⟨fun o => ?_, ?_⟩
  · by_cases ho : o = q
    · subst ho; rw [hget]; exact ⟨hlo, hhi⟩
    · rw [hother o ho]; exact hrange o
  · have h1 := hother .pollFast
    have h2 := hother .pollSettled
    have h3 := hother .evalFast
    have h4 := hother .evalSettled
    cases q <;> simp_all [Params.get]

theorem effect_keeps_paramsLaw (s t : State) (e : Effect s t) : ParamsLaw s → ParamsLaw t := by
  obtain h | ⟨q, v, h⟩ | h := e.params_cases
  · exact paramsLaw_of_params h
  · exact paramsLaw_of_write h
  · exact fun _ => paramsLaw_of_defaults h

/-! ### The notice queue -/

/-- A property of the notice queue alone that arrivals keep. -/
structure NoticesInv (P : State → Prop) : Prop where
  congr : ∀ {s t : State}, P s → t.notices = s.notices → P t
  arrive : ∀ n s, P s → P (arrive n s)

namespace NoticesInv
variable {P : State → Prop} (h : NoticesInv P)
include h

theorem quiet : Quiet P :=
  ⟨h.arrive, fun _ _ _ p => h.congr p rfl, fun _ _ p => h.congr p rfl, fun _ _ p => h.congr p rfl⟩

theorem emit (b : NoticeBody) (s : State) (p : P s) : P (emit b s) := h.arrive _ s p

theorem onset (src : AlertSource) (s : State) (p : P s) : P (onset src s) := h.congr p rfl

theorem zoneOnsets (old new : ZoneState) (s : State) (p : P s) : P (zoneOnsets old new s) := by
  refine h.congr p ?_
  simp only [Machine.zoneOnsets, List.foldl]
  repeat' split
  all_goals rfl

theorem swapPending (s : State) (p : P s) : P (swapPending s) := by
  unfold Machine.swapPending
  split
  · exact p
  · exact h.emit _ _ (h.congr p rfl)

theorem takeHead (s : State) (p : P s) : P (takeHead s) := by
  unfold Machine.takeHead
  repeat' split
  · exact h.congr p rfl
  · exact h.congr p rfl
  · exact p

theorem joinDueQueue (z : ZoneId) (s : State) (p : P s) : P (joinDueQueue z s) :=
  h.takeHead _ (h.congr p rfl)

theorem makePending (k : BankId) (s : State) (p : P s) : P (makePending k s) := by
  unfold Machine.makePending
  dsimp only
  split
  · exact h.swapPending _ (h.congr p rfl)
  · exact h.congr p rfl

theorem recomputeMembers (ms : List SlotId) (s : State) (p : P s) : P (recomputeMembers ms s) :=
  quiet_recomputeMembers h.quiet ms s p

theorem defineZone (z : ZoneId) (d : ZoneDef) (s : State) (p : P s) : P (defineZone z d s) := by
  unfold Machine.defineZone
  dsimp only
  repeat' split
  · exact h.joinDueQueue _ _ (h.recomputeMembers _ _ (h.congr p rfl))
  · exact h.recomputeMembers _ _ (h.joinDueQueue _ _ (h.congr p rfl))
  · exact h.recomputeMembers _ _ (h.joinDueQueue _ _ (h.congr p rfl))

theorem closeZone (z : ZoneId) (r : Zone) (s : State) (p : P s) : P (closeZone z r s) :=
  h.recomputeMembers _ _ (h.congr p rfl)

theorem completeFor (c : Current) (s : State) (p : P s) : P (completeFor c s) := by
  unfold Machine.completeFor
  split
  · split
    · unfold completeZone
      dsimp only
      refine h.zoneOnsets _ _ _ ?_
      repeat' split
      · exact h.recomputeMembers _ _ (h.congr p rfl)
      · exact h.recomputeMembers _ _ (h.emit _ _ (h.congr p rfl))
      · exact h.congr p rfl
      · exact h.emit _ _ (h.congr p rfl)
    · exact p
  · exact p

theorem completeEvaluation (c : Current) (s : State) (p : P s) : P (completeEvaluation c s) :=
  h.takeHead _ (h.swapPending _ (h.congr (h.completeFor c s p) rfl))

theorem missIfFaulted (i : SlotId) (s : State) (p : P s) : P (missIfFaulted i s) :=
  quiet_missIfFaulted h.quiet i s p

theorem endHeat (i : SlotId) (r : Slot) (s : State) (p : P s) : P (endHeat i r s) :=
  h.missIfFaulted _ _ (h.emit _ _ (h.congr p rfl))

theorem complete (l : LineId) (ln : Line) (t : Txn) (ph : Phase) (rep : Report) (s : State) (p : P s) :
    P (complete l ln t ph rep s) := by
  unfold Machine.complete
  dsimp only
  split
  · exact h.congr p rfl
  · exact quiet_handOutcome h.quiet _ _ _ _ (h.congr p rfl)

theorem enterFault (l : LineId) (ln : Line) (s : State) (p : P s) : P (enterFault l ln s) := by
  have hcut : ∀ st s, P s → P (cutTransaction st s) := by
    intro st s p
    unfold cutTransaction
    repeat' split
    · exact quiet_handOutcome h.quiet _ _ _ _ p
    all_goals exact p
  unfold Machine.enterFault
  exact quiet_inFreeOrder h.quiet (fun i s p => quiet_handOutcome h.quiet _ _ _ _ p) _ _
    (hcut _ _ (h.onset _ _ (h.emit _ _ (h.congr p rfl))))

end NoticesInv

/-- An arrival at a full queue discards one notice, and below the bound the queue has room. -/
theorem queueLaw_arrive (n : Notice) (s : State) (h : QueueLaw s) : QueueLaw (arrive n s) := by
  obtain ⟨hlen, hcar⟩ := h
  unfold arrive
  dsimp only
  split
  next hlt =>
    have hq : QueueLaw { s with notices := { s.notices with queue := s.notices.queue ++ [n] } } := by
      simp only [QueueLaw, List.length_append, List.length_singleton]
      unfold queueCapacity at hlt
      omega
    split
    · exact hq
    · exact hq
  next =>
    split
    · exact ⟨hlen, hcar⟩
    · simp only [QueueLaw, List.length_append, List.length_tail, List.length_singleton]
      omega

theorem noticesInv_queueLaw : NoticesInv QueueLaw :=
  ⟨fun hq h => by unfold QueueLaw; rw [h]; exact hq, queueLaw_arrive⟩

theorem effect_keeps_queueLaw (s t : State) (e : Effect s t) : QueueLaw s → QueueLaw t := by
  intro h
  have inv := noticesInv_queueLaw
  cases e
  case carry hn => exact ⟨h.1, hn⟩
  case sent => exact ⟨by simpa using Nat.le_trans (Nat.sub_le _ _) h.1, Nat.zero_le _⟩
  case reset => exact ⟨Nat.zero_le _, Nat.le_refl _⟩
  case restart => exact ⟨Nat.zero_le _, Nat.le_refl _⟩
  case enrol => exact inv.missIfFaulted _ _ h
  case release => exact inv.missIfFaulted _ _ h
  case define => exact inv.defineZone _ _ _ h
  case close => exact inv.closeZone _ _ _ h
  case commit => exact inv.makePending _ _ h
  case select => exact inv.makePending _ _ h
  case expiry => exact inv.joinDueQueue _ _ h
  case completion => exact inv.completeEvaluation _ _ h
  case due => exact inv.missIfFaulted _ _ h
  case heatEnd => exact inv.endHeat _ _ _ h
  case early => exact inv.complete _ _ _ _ _ _ h
  case whole => exact inv.complete _ _ _ _ _ _ h
  case fault => exact inv.enterFault _ _ _ h
  case recovery => exact inv.emit _ _ h
  all_goals exact h

/-- Settles O53: PARAM-SET checks range and partner, and a notice arrives only below the bound or in the place of another. -/
theorem stepKeepsParamsAndQueueLaws : Obligations.StepKeepsParamsAndQueueLaws :=
  ⟨fun _ _ => step_keeps (fun _ _ h => h) effect_keeps_paramsLaw, fun _ _ => step_keeps (fun _ _ h => h) effect_keeps_queueLaw⟩

end Sys2Proof.Machine
end

section
/-! The probe lines along a step (R126, R128, R136, R139): one lemma per record that an event writes, then the law of all lines. -/

namespace Sys2Proof.Machine

/-! ### The records that events write -/

section
variable {l : Line} {t : Txn}

theorem valid_lineReset (active : Bool) : (Line.reset active).Valid := by
  cases active <;> simp [Line.Valid, Line.reset, LineState.transmitting, LineState.watched]

theorem valid_withSetup (hv : l.Valid) (h : l.state = .off) (r : Rate) (o : BitOrder) {ms fault : Nat}
    (hms : 5 ≤ ms ∧ ms ≤ 250) (hf : 10 ≤ fault ∧ fault ≤ 1000) : (l.withSetup r o ms fault).Valid := by
  obtain ⟨hde, -, -, -, -⟩ := hv
  rw [h] at hde
  exact ⟨hde, (Bool.and_true _).symm, (Bool.and_false _).symm, fun t ht => (nomatch ht), hms.1, hms.2, hf⟩

theorem valid_stopped (hv : l.Valid) : l.stopped.Valid := by
  obtain ⟨-, -, -, -, hsetup⟩ := hv
  exact ⟨rfl, (Bool.and_false _).symm, (Bool.and_false _).symm, fun t ht => (nomatch ht), hsetup⟩

theorem valid_orphaning (hv : l.Valid) (i : SlotId) : (l.orphaning i).Valid := by
  unfold Line.orphaning
  split
  next t ht =>
    split
    · obtain ⟨hde, has, hrs, htx, hsetup⟩ := hv
      rw [ht] at hde has hrs
      exact ⟨hde, has, hrs, fun u hu => by cases hu; exact htx t ht, hsetup⟩
    · exact hv
  next => exact hv

theorem restStretch_eq_false (hv : l.Valid) (h : l.state ≠ .fault) : l.restStretch = false := by
  obtain ⟨-, -, hrs, -, -⟩ := hv
  rw [hrs, beq_false_of_ne h, Bool.and_false]

/-- A line that is BUSY after an event that kept its setup and its rest stretch. -/
theorem valid_of_busy {m : Line} {u : Txn} (hv : l.Valid) (h : l.state ≠ .fault) (hm : m.state = .busy u)
    (hde : m.driveEnable = (u.phase == .sending)) (has : m.activeStretch = (m.activeLevel && u.phase != .sending))
    (hfw : u.framingWait = true → u.phase = .receiving)
    (hrec : u.phase = .sending ∨ u.phase = .awaiting → u.received = [])
    (hkept : m.restStretch = l.restStretch ∧ m.replyTimeout = l.replyTimeout ∧ m.faultTime = l.faultTime) : m.Valid := by
  obtain ⟨hrest, hrt, hft⟩ := hkept
  have hr := restStretch_eq_false hv h
  obtain ⟨-, -, -, -, hsetup⟩ := hv
  refine ⟨by rw [hm]; exact hde, by rw [hm]; exact has, ?_, fun v hv => ?_, by rw [hrt, hft]; exact hsetup⟩
  · rw [hrest, hr, hm]; exact (Bool.and_false _).symm
  · rw [hm] at hv; cases hv; exact ⟨hfw, hrec⟩

theorem valid_polling (hv : l.Valid) (h : l.state = .idle) (ha : l.activeLevel = false) (s : State) (i : SlotId) (r : Slot) :
    { l with state := .busy (startTxn s i r), lastServed := some i, driveEnable := true }.Valid := by
  obtain ⟨-, has, -, -, -⟩ := id hv
  rw [ha] at has
  exact valid_of_busy hv (by rw [h]; exact nofun) rfl rfl (has.trans (by rw [ha]; rfl)) nofun (fun _ => rfl) ⟨rfl, rfl, rfl⟩

theorem valid_leaving (hv : l.Valid) (ha : l.activeLevel = false) : l.leaving.Valid := by
  obtain ⟨hde, has, hrs, htx, hsetup⟩ := id hv
  unfold Line.leaving
  split
  next h => exact ⟨by rw [h]; rw [h] at hde; exact hde, by rw [h]; rfl, by rw [h] at hrs ⊢; rw [ha] at hrs; exact hrs, htx, hsetup⟩
  next t h =>
    have hnf : l.state ≠ .fault := by rw [h]; exact nofun
    obtain ⟨hfw, hrec⟩ := htx t h
    rw [h] at hde has
    rw [ha] at has
    split
    next hp => exact valid_of_busy hv hnf h hde (by rw [hp]; exact has) hfw hrec ⟨rfl, rfl, rfl⟩
    next hp =>
      exact valid_of_busy hv hnf rfl (hde.trans (by unfold LineState.transmitting; dsimp only; rw [hp]; rfl)) rfl (fun _ => rfl) (by simp) ⟨rfl, rfl, rfl⟩
    all_goals
      next hp => exact valid_of_busy hv hnf h hde (by rw [hp]; rfl) hfw hrec ⟨rfl, rfl, rfl⟩
  next h => exact ⟨hde, by rw [h] at has ⊢; rw [ha] at has; exact has, by simp, htx, hsetup⟩
  next h => exact ⟨hde, by rw [h] at has ⊢; rw [ha] at has; exact has, by rw [h] at hrs ⊢; rw [ha] at hrs; exact hrs, htx, hsetup⟩

theorem valid_atIdle (hv : l.Valid) (h : l.state ≠ .fault) : l.atIdle.Valid := by
  have hr := restStretch_eq_false hv h
  obtain ⟨hde, -, -, htx, hsetup⟩ := hv
  exact ⟨hde, rfl, hr.trans (beq_false_of_ne h).symm, htx, hsetup⟩

theorem valid_resting (hv : l.Valid) (h : l.state = .fault) : { l.atIdle with restStretch := true }.Valid := by
  obtain ⟨hde, -, -, htx, hsetup⟩ := hv
  exact ⟨hde, rfl, by simp [Line.atIdle, h], htx, hsetup⟩

/-- A measured active stretch is at the active level, so no rest stretch begins as the line enters FAULT. -/
theorem valid_faulted (hv : l.Valid) (ha : l.activeStretch = true) :
    { l with state := .fault, driveEnable := false, activeStretch := false, restStretch := false }.Valid := by
  obtain ⟨-, has, -, -, hsetup⟩ := hv
  rw [ha, eq_comm, Bool.and_eq_true] at has
  exact ⟨rfl, (Bool.and_false _).symm, by simp [has.1], fun t ht => (nomatch ht), hsetup⟩

/-- A rest stretch is measured at the idle level, so the recovered line has no active stretch. -/
theorem valid_recovered (hv : l.Valid) (hr : l.restStretch = true) (h : l.state = .fault) :
    { l with state := .idle, restStretch := false }.Valid := by
  obtain ⟨hde, has, hrs, -, hsetup⟩ := hv
  rw [h] at hde has
  rw [hr, eq_comm, Bool.and_eq_true, Bool.not_eq_true'] at hrs
  exact ⟨hde, by simpa [hrs.1, LineState.watched] using has, (Bool.and_false _).symm, fun t ht => (nomatch ht), hsetup⟩

theorem valid_turned (hv : l.Valid) (h : l.state = .busy t) (ht : t.phase = .turnaround) : { l with state := .idle }.Valid := by
  have hr := restStretch_eq_false hv (by rw [h]; exact nofun)
  obtain ⟨hde, has, -, -, hsetup⟩ := hv
  rw [h] at hde has
  have hne : t.phase ≠ .sending := by rw [ht]; exact nofun
  refine ⟨?_, ?_, hr.trans (Bool.and_false _).symm, fun t ht => (nomatch ht), hsetup⟩
  · exact hde.trans (beq_false_of_ne hne)
  · have hw : LineState.watched (.busy t) = true := bne_iff_ne.mpr hne
    rw [has, hw]; rfl

/-- A line whose transaction goes on in a phase after SENDING, from one after SENDING. -/
theorem valid_onward {m : Line} {u : Txn} (hv : l.Valid) (h : l.state = .busy t) (ht : t.phase ≠ .sending)
    (hm : m.state = .busy u) (hu : u.phase ≠ .sending) (hs : m.activeStretch = m.activeLevel)
    (hkept : m.driveEnable = l.driveEnable ∧ m.restStretch = l.restStretch ∧ m.replyTimeout = l.replyTimeout
      ∧ m.faultTime = l.faultTime) (hfw : u.framingWait = true → u.phase = .receiving)
    (hrec : u.phase = .awaiting → u.received = []) :
    m.Valid := by
  obtain ⟨hdrive, hkept⟩ := hkept
  obtain ⟨hde, -, -, -, -⟩ := id hv
  rw [h] at hde
  have hd : m.driveEnable = (u.phase == .sending) := by
    rw [hdrive, hde, LineState.transmitting, beq_false_of_ne ht, beq_false_of_ne hu]
  have hstretch : m.activeStretch = (m.activeLevel && u.phase != .sending) := by
    rw [hs, bne, beq_false_of_ne hu]; exact (Bool.and_true _).symm
  exact valid_of_busy hv (by rw [h]; exact nofun) hm hd hstretch hfw (fun hp => hrec (hp.resolve_left hu)) hkept

/-- After SENDING the active stretch is measured exactly at the active level. -/
theorem activeStretch_eq_activeLevel (hv : l.Valid) (h : l.state = .busy t) (ht : t.phase ≠ .sending) :
    l.activeStretch = l.activeLevel := by
  obtain ⟨-, has, -, -, -⟩ := hv
  rw [h] at has
  rw [has, LineState.watched, bne, beq_false_of_ne ht]
  exact Bool.and_true _

end

/-! ### The law of all lines -/

theorem linesLaw_of_lines {s t : State} (hs : LinesLaw s) (h : t.lines = s.lines) : LinesLaw t := by
  intro l; unfold State.line; rw [h]; exact hs l

theorem linesLaw_setLine {s : State} {l : LineId} {r : Line} (hs : LinesLaw s) (hr : r.Valid) : LinesLaw (s.setLine l r) := by
  intro k
  rw [line_setLine]
  split
  · exact hr
  · exact hs k

theorem linesLaw_resetAll (t : Tables) (r : LinkRate) (s : State) : LinesLaw (resetAll t r s) := by
  intro l
  have : (resetAll t r s).line l = .reset (s.line l).activeLevel := Vector.getElem_map ..
  rw [this]
  exact valid_lineReset _

theorem linesLaw_complete {s : State} {l : LineId} {ln : Line} {t : Txn} {p : Phase} {rep : Report} (hs : LinesLaw s)
    (hl : ln = s.line l ∨ ln = (s.line l).atIdle) (h : (s.line l).state = .busy t)
    (ht : t.phase ≠ .sending) (hp : p = .discarding ∨ p = .turnaround) : LinesLaw (complete l ln t p rep s) := by
  have hps : p ≠ .sending := by obtain rfl | rfl := hp <;> exact nofun
  have hpa : p ≠ .awaiting := by obtain rfl | rfl := hp <;> exact nofun
  have hline : LinesLaw (s.setLine l { ln with state := .busy { t with phase := p, framingWait := false } }) := by
    refine linesLaw_setLine hs ?_
    obtain rfl | rfl := hl
    · have hstretch := activeStretch_eq_activeLevel (hs l) h ht
      exact valid_onward (hs l) h ht rfl hps hstretch ⟨rfl, rfl, rfl, rfl⟩ nofun
        fun h => absurd h hpa
    · exact valid_onward (hs l) h ht rfl hps rfl ⟨rfl, rfl, rfl, rfl⟩ nofun fun h => absurd h hpa
  unfold complete
  dsimp only
  split
  · exact hline
  · exact linesLaw_of_lines hline (handOutcome_probesOnly _ _ _ _).lines

theorem linesLaw_enterFault {s : State} {l : LineId} (hs : LinesLaw s) (ha : (s.line l).activeStretch = true) :
    LinesLaw (enterFault l (s.line l) s) := by
  refine linesLaw_of_lines (linesLaw_setLine (l := l) hs (valid_faulted (hs l) ha)) ?_
  unfold enterFault
  exact (((emit_noticesOnly _ _).trans (onset_noticesOnly _ _)).probes.trans ((cutTransaction_probesOnly _ _).trans
    (inFreeOrder_probesOnly faultMiss_probesOnly _ _))).lines

theorem Txn.receiving_iff (t : Txn) : t.receiving = true ↔ t.phase = .receiving ∧ t.framingWait = false := by
  simp [Txn.receiving]

theorem effect_keeps_linesLaw (s t : State) (e : Effect s t) (hs : LinesLaw s) : LinesLaw t := by
  cases e with
  | setup l r o ms fault _ h hms hf => exact linesLaw_setLine hs (valid_withSetup (hs l) h r o hms hf)
  | stop l => exact linesLaw_setLine hs (valid_stopped (hs l))
  | withdraw i r => exact linesLaw_setLine (l := r.line) hs (valid_orphaning (hs r.line) i)
  | reset => exact linesLaw_resetAll _ _ _
  | restart => exact linesLaw_resetAll _ _ _
  | pollStart l i r _ h ha => exact linesLaw_setLine hs (valid_polling (hs l) h ha s i r)
  | pollSent l t _ h hp =>
    obtain ⟨-, -, -, htx, -⟩ := hs l
    obtain ⟨hfw, hrec⟩ := htx t h
    have hno : t.framingWait ≠ true := fun hf => by have := hfw hf; rw [hp] at this; cases this
    exact linesLaw_setLine hs (valid_of_busy (hs l) (by rw [h]; exact nofun) rfl rfl (Bool.and_true _).symm
      (fun hf => absurd hf hno) (fun _ => hrec (.inl hp)) ⟨rfl, rfl, rfl⟩)
  | leave l _ ha => exact linesLaw_setLine hs (valid_leaving (hs l) ha)
  | rest l _ _ hf => exact linesLaw_setLine hs (valid_resting (hs l) hf)
  | early l ln t p o _ hl h ht hp =>
    exact linesLaw_complete hs hl h (by obtain ht | ht := ht <;> rw [ht] <;> exact nofun) hp
  | whole l t b rep _ h ht =>
    exact linesLaw_complete hs (.inr rfl) h (by rw [(t.receiving_iff.mp ht).1]; exact nofun) (.inr rfl)
  | character l t b _ h ht =>
    obtain ⟨hp, -⟩ := t.receiving_iff.mp ht
    have hns : t.phase ≠ .sending := by rw [hp]; exact nofun
    exact linesLaw_setLine hs (valid_onward (hs l) h hns rfl hns rfl ⟨rfl, rfl, rfl, rfl⟩ (fun _ => hp)
      fun ha => by have := ha.symm.trans hp; cases this)
  | framing l t _ h ht =>
    obtain ⟨hp, -⟩ := t.receiving_iff.mp ht
    have hns : t.phase ≠ .sending := by rw [hp]; exact nofun
    exact linesLaw_setLine hs (valid_onward (hs l) h hns rfl hns rfl ⟨rfl, rfl, rfl, rfl⟩ (fun _ => hp)
      fun ha => by have := ha.symm.trans hp; cases this)
  | discarded l t _ h ht =>
    obtain ⟨-, -, -, htx, -⟩ := hs l
    obtain ⟨hfw, -⟩ := htx t h
    have hns : t.phase ≠ .sending := by rw [ht]; exact nofun
    have hstretch := activeStretch_eq_activeLevel (hs l) h hns
    exact linesLaw_setLine hs (valid_onward (hs l) h hns rfl nofun hstretch
      ⟨rfl, rfl, rfl, rfl⟩ (fun hf => by have := ht.symm.trans (hfw hf); cases this) nofun)
  | turned l t _ h ht => exact linesLaw_setLine hs (valid_turned (hs l) h ht)
  | fault l _ _ ha => exact linesLaw_enterFault hs ha
  | recovery l _ h hr =>
    exact linesLaw_of_lines (linesLaw_setLine (l := l) hs (valid_recovered (hs l) hr h)) (emit_noticesOnly _ _).lines
  | enrol => exact linesLaw_of_lines hs (missIfFaulted_probesOnly _ _).lines
  | release => exact linesLaw_of_lines hs (missIfFaulted_probesOnly _ _).lines
  | define => exact linesLaw_of_lines hs (defineZone_cycleOnly _ _ _).lines
  | close => exact linesLaw_of_lines hs (closeZone_cycleOnly _ _ _).lines
  | commit => exact linesLaw_of_lines hs (makePending_cycleOnly _ _).lines
  | select => exact linesLaw_of_lines hs (makePending_cycleOnly _ _).lines
  | expiry => exact linesLaw_of_lines hs (joinDueQueue_cycleOnly _ _).lines
  | completion => exact linesLaw_of_lines hs (completeEvaluation_cycleOnly _ _).lines
  | due => exact linesLaw_of_lines hs (missIfFaulted_probesOnly _ _).lines
  | heatEnd => exact linesLaw_of_lines hs (endHeat_probesOnly _ _ _).lines
  | link | carry | sent | overflowRead | params | alerts | hold | force | begin | element | tick => exact hs
  -- The constructor left, a line's return to the idle level, has a keyword for its name.
  | _ => next l _ hf => exact linesLaw_setLine hs (valid_atIdle (hs l) hf)

/-- Settles O57. -/
theorem stepKeepsLinesLaw : Obligations.StepKeepsLinesLaw :=
  fun _ _ => step_keeps (fun _ _ h => h) effect_keeps_linesLaw

end Sys2Proof.Machine
end

section
/-! The banks by name (R50 to R56, R61, R64): reading a bank after a write, which bank is ACTIVE or PENDING, and the order test. -/

namespace Sys2Proof.Machine

/-! ### Reading a bank -/

theorem BankId.forall_iff {P : BankId → Prop} : (∀ k, P k) ↔ P .rom ∧ P .a ∧ P .b :=
  ⟨fun h => ⟨h _, h _, h _⟩, fun ⟨hr, ha, hb⟩ k => by cases k <;> assumption⟩

theorem BankId.exists_iff {P : BankId → Prop} : (∃ k, P k) ↔ P .rom ∨ P .a ∨ P .b := by
  constructor
  · rintro ⟨k, hk⟩
    cases k
    · exact .inl hk
    · exact .inr (.inl hk)
    · exact .inr (.inr hk)
  · rintro (h | h | h) <;> exact ⟨_, h⟩

theorem loadable_eq_some {t : Tables} {k : BankId} {b : Bank} (h : t.loadable k = some b) :
    k = .a ∧ t.a = b ∨ k = .b ∧ t.b = b := by
  cases k
  · cases h
  · exact .inl ⟨rfl, Option.some.inj h⟩
  · exact .inr ⟨rfl, Option.some.inj h⟩

theorem stateOf_of_loadable {t : Tables} {k : BankId} {b : Bank} (h : t.loadable k = some b) : t.stateOf k = b.state := by
  obtain ⟨rfl, rfl⟩ | ⟨rfl, rfl⟩ := loadable_eq_some h <;> rfl

@[simp] theorem stateOf_withCursor (t : Tables) (cur : Option LoadCursor) (j : BankId) :
    { t with cursor := cur }.stateOf j = t.stateOf j := by cases j <;> rfl

@[simp] theorem loadable_withCursor (t : Tables) (cur : Option LoadCursor) (j : BankId) :
    { t with cursor := cur }.loadable j = t.loadable j := by cases j <;> rfl

@[simp] theorem stateOf_setState (t : Tables) (k j : BankId) (st : BankState) :
    (t.setState k st).stateOf j = if j = k then st else t.stateOf j := by
  cases k <;> cases j <;> rfl

theorem loadable_setState (t : Tables) (k j : BankId) (st : BankState) :
    (t.setState k st).loadable j = (t.loadable j).map fun b => if j = k then { b with state := st } else b := by
  cases k <;> cases j <;> rfl

@[simp] theorem setState_cursor (t : Tables) (k : BankId) (st : BankState) : (t.setState k st).cursor = t.cursor := by
  cases k <;> rfl

theorem loadable_setBank {t : Tables} {k : BankId} {b : Bank} (h : t.loadable k = some b) (b' : Bank) (j : BankId) :
    (t.setBank k b').loadable j = if j = k then some b' else t.loadable j := by
  obtain ⟨rfl, -⟩ | ⟨rfl, -⟩ := loadable_eq_some h <;> cases j <;> rfl

theorem stateOf_setBank {t : Tables} {k : BankId} {b : Bank} (h : t.loadable k = some b) (b' : Bank) (j : BankId) :
    (t.setBank k b').stateOf j = if j = k then b'.state else t.stateOf j := by
  obtain ⟨rfl, -⟩ | ⟨rfl, -⟩ := loadable_eq_some h <;> cases j <;> rfl

@[simp] theorem setBank_rom (t : Tables) (k : BankId) (b : Bank) : (t.setBank k b).rom = t.rom := by cases k <;> rfl

/-! ### The ACTIVE bank and the PENDING bank -/

theorem activeBank_eq {t : Tables} {old : BankId} (h : ∀ j, t.stateOf j = .active ↔ j = old) : t.activeBank = old := by
  have ha : t.a.state = .active ↔ .a = old := h .a
  have hb : t.b.state = .active ↔ .b = old := h .b
  unfold Tables.activeBank
  cases old <;> simp [ha, hb]

theorem pendingBank_eq_none {t : Tables} : t.pendingBank = none ↔ ∀ j, t.stateOf j ≠ .pending := by
  rw [BankId.forall_iff]
  unfold Tables.pendingBank Tables.stateOf
  dsimp only
  split
  · simp_all
  · split
    · simp_all
    · split <;> simp_all

theorem stateOf_pendingBank {t : Tables} {k : BankId} (h : t.pendingBank = some k) : t.stateOf k = .pending := by
  unfold Tables.pendingBank at h
  split at h
  · cases h; assumption
  · split at h
    · cases h; assumption
    · split at h <;> cases h
      assumption

theorem pendingBank_eq_some {t : Tables} {k : BankId} (h : ∀ j, t.stateOf j = .pending ↔ j = k) :
    t.pendingBank = some k := by
  cases hp : t.pendingBank with
  | none => exact absurd ((h k).mpr rfl) (pendingBank_eq_none.mp hp k)
  | some j => rw [(h j).mp (stateOf_pendingBank hp)]

/-! ### Counting banks in a state -/

section
variable (t : Tables) (v : BankState)

theorem count_states_eq_one :
    [t.rom, t.a.state, t.b.state].count v = 1 ↔ ∃ k, ∀ j, t.stateOf j = v ↔ j = k := by
  simp only [BankId.exists_iff, BankId.forall_iff, Tables.stateOf, List.count_cons, List.count_nil]
  by_cases hr : t.rom = v <;> by_cases ha : t.a.state = v <;> by_cases hb : t.b.state = v <;> simp [hr, ha, hb]

theorem count_states_le_one :
    [t.rom, t.a.state, t.b.state].count v ≤ 1 ↔ ∀ j k, t.stateOf j = v → t.stateOf k = v → j = k := by
  simp only [BankId.forall_iff, Tables.stateOf, List.count_cons, List.count_nil]
  by_cases hr : t.rom = v <;> by_cases ha : t.a.state = v <;> by_cases hb : t.b.state = v <;> simp [hr, ha, hb]

theorem count_states_ne_zero : [t.rom, t.a.state, t.b.state].count v ≠ 0 ↔ ∃ j, t.stateOf j = v := by
  rw [BankId.exists_iff, ← Nat.pos_iff_ne_zero, List.count_pos_iff, List.mem_cons, List.mem_cons, List.mem_singleton]
  exact or_congr eq_comm (or_congr eq_comm eq_comm)

end

/-! ### The order test (R61) -/

theorem orderFailureFrom_eq_none {e : Entry} {i : Nat} {rest : List Entry} (h : orderFailureFrom e i rest = none) :
    (e :: rest).Pairwise fun x y => x.temp < y.temp ∧ x.pressure < y.pressure := by
  induction rest generalizing e i with
  | nil => exact List.pairwise_singleton _ _
  | cons n rest ih =>
    unfold orderFailureFrom at h
    split at h
    next hn =>
      have hrest := ih h
      obtain ⟨habove, -⟩ := List.pairwise_cons.mp hrest
      refine List.pairwise_cons.mpr ⟨fun y hy => ?_, hrest⟩
      obtain rfl | hy := List.mem_cons.mp hy
      · exact hn
      · exact ⟨Int.lt_trans hn.1 (habove y hy).1, Nat.lt_trans hn.2 (habove y hy).2⟩
    next => cases h

theorem entriesRise_of_orderFailure {es : List Entry} (h : orderFailure es = none) : entriesRise es := by
  cases es with
  | nil => exact ⟨List.Pairwise.nil, fun _ he => nomatch he⟩
  | cons e rest =>
    unfold orderFailure at h
    dsimp only at h
    split at h
    next => cases h
    next hp =>
      have hrise := orderFailureFrom_eq_none h
      refine ⟨hrise, fun y hy => ?_⟩
      obtain rfl | hy := List.mem_cons.mp hy
      · exact Nat.one_le_iff_ne_zero.mpr hp
      · exact Nat.one_le_of_lt ((List.pairwise_cons.mp hrise).1 y hy).2

end Sys2Proof.Machine
end

section
/-! The laws of the banks along a step (R47, R50 to R56, R64): the laws said by bank name, then what each operation of the table unit
and each start or end of an evaluation does to them. -/

namespace Sys2Proof.Machine

/-! ### The laws by bank name -/

/-- A validated state (R52). -/
def BankState.validated (st : BankState) : Prop := st = .pending ∨ st = .active ∨ st = .standby

/-- What the banks and the cursor hold, by bank name: the laws that do not say which bank is ACTIVE or PENDING. -/
structure BanksHeld (t : Tables) : Prop where
  rom : t.rom.validated
  banks : ∀ k b, t.loadable k = some b → BankLaw b
  loading : ∀ j k, t.stateOf j = .loading → t.stateOf k = .loading → j = k
  cursor : CursorLaw t

/-- The laws of the banks that do not speak of the evaluation, by bank name. -/
structure BanksLaw (t : Tables) : Prop extends BanksHeld t where
  active : ∃ old, ∀ j, t.stateOf j = .active ↔ j = old
  pending : ∀ j k, t.stateOf j = .pending → t.stateOf k = .pending → j = k

theorem tablesLaw_iff (s : State) : TablesLaw s ↔
    BanksLaw s.tables ∧ (∀ c, s.current = some c → s.tables.stateOf c.bank = .active)
      ∧ ((∃ j, s.tables.stateOf j = .pending) → s.current ≠ none) := by
  unfold TablesLaw
  rw [count_states_eq_one, count_states_le_one, count_states_le_one, count_states_ne_zero]
  constructor
  · rintro ⟨hr, ha, hb, hact, hpend, hload, hcur, hbank, hidle⟩
    refine ⟨⟨⟨hr, fun k b hk => ?_, hload, hcur⟩, hact, hpend⟩, hbank, hidle⟩
    obtain ⟨-, rfl⟩ | ⟨-, rfl⟩ := loadable_eq_some hk
    · exact ha
    · exact hb
  · rintro ⟨⟨⟨hr, hbanks, hload, hcur⟩, hact, hpend⟩, hbank, hidle⟩
    exact ⟨hr, hbanks .a _ rfl, hbanks .b _ rfl, hact, hpend, hload, hcur, hbank, hidle⟩

theorem stateOf_activeBank {t : Tables} (h : BanksLaw t) : t.stateOf t.activeBank = .active := by
  obtain ⟨old, hold⟩ := h.active
  rw [activeBank_eq hold]
  exact (hold old).mpr rfl

/-! ### A bank changes its state -/

theorem bankLaw_of_validated {b : Bank} {st : BankState} (h : BankLaw b) (hb : b.state.validated) (hst : st.validated) :
    BankLaw { b with state := st } := by
  obtain ⟨bst, contents⟩ := b
  obtain rfl | rfl | rfl := hb <;> obtain rfl | rfl | rfl := hst <;> cases contents <;> exact h

/-- A LOADED bank whose entries pass the order test is fit for a validated state. -/
theorem bankLaw_of_loaded {b : Bank} {c : BankContents} {st : BankState} (h : BankLaw b) (hb : b.state = .loaded)
    (hc : b.contents = some c) (hrise : entriesRise c.entries) (hst : st.validated) : BankLaw { b with state := st } := by
  obtain ⟨bst, contents⟩ := b
  dsimp only at hb hc
  subst hb hc
  obtain ⟨hlo, hhi, hlen, hpart⟩ := h
  obtain rfl | rfl | rfl := hst <;> exact ⟨hlo, hhi, hlen, hpart, hrise⟩

theorem cursorLaw_none {t : Tables} (h : t.cursor = none) : CursorLaw t ↔ ∀ j, t.stateOf j ≠ .loading ∨ j = .rom := by
  unfold CursorLaw
  rw [h, BankId.forall_iff]
  simp [Tables.stateOf]

/-- A bank that is not LOADING, before or after, leaves the cursor where it stands. -/
theorem cursorLaw_setState {t : Tables} {k : BankId} {st : BankState} (h : CursorLaw t) (hk : t.stateOf k ≠ .loading)
    (hst : st ≠ .loading) : CursorLaw (t.setState k st) := by
  cases hc : t.cursor with
  | none =>
    rw [cursorLaw_none hc] at h
    refine (cursorLaw_none (by simpa using hc)).mpr fun j => ?_
    rw [stateOf_setState]
    split
    · exact .inl hst
    · exact h j
  | some cur =>
    unfold CursorLaw at h ⊢
    rw [hc] at h
    rw [setState_cursor, hc]
    obtain ⟨b, c, hb, hload, hrest⟩ := h
    have hne : cur.bank ≠ k := by
      rintro rfl
      exact hk ((stateOf_of_loadable hb).trans hload)
    exact ⟨b, c, by rw [loadable_setState, hb, Option.map_some, if_neg hne], hload, hrest⟩

/-- A bank fit for a validated state takes it. -/
theorem banksHeld_setState {t : Tables} {k : BankId} {st : BankState} (h : BanksHeld t) (hst : st.validated)
    (hk : t.stateOf k ≠ .loading) (hfit : ∀ b, t.loadable k = some b → BankLaw { b with state := st }) :
    BanksHeld (t.setState k st) := by
  have hload : st ≠ .loading := by obtain rfl | rfl | rfl := hst <;> exact nofun
  refine ⟨?_, fun j b hb => ?_, fun i j hi hj => ?_, cursorLaw_setState h.cursor hk hload⟩
  · cases k
    · exact hst
    · exact h.rom
    · exact h.rom
  · rw [loadable_setState] at hb
    obtain ⟨b', hb', rfl⟩ := Option.map_eq_some_iff.mp hb
    split
    next hj => subst hj; exact hfit b' hb'
    next => exact h.banks j b' hb'
  · rw [stateOf_setState] at hi hj
    split at hi
    · exact absurd hi hload
    · split at hj
      · exact absurd hj hload
      · exact h.loading i j hi hj

theorem BankState.validated.ne_loading {st : BankState} (h : st.validated) : st ≠ .loading := by
  obtain rfl | rfl | rfl := h <;> exact nofun

/-- A validated bank may take any validated state. -/
theorem banksHeld_setState_of_validated {t : Tables} {k : BankId} {st : BankState} (h : BanksHeld t) (hst : st.validated)
    (hk : (t.stateOf k).validated) : BanksHeld (t.setState k st) :=
  banksHeld_setState h hst hk.ne_loading fun b hb =>
    bankLaw_of_validated (h.banks k b hb) (stateOf_of_loadable hb ▸ hk) hst

/-! ### The swap and its end of an evaluation -/

/-- The swap makes the PENDING bank the ACTIVE one, and no bank is PENDING after it. -/
theorem banksLaw_swap {t : Tables} {k old : BankId} (h : BanksLaw t) (hk : t.stateOf k = .pending)
    (hold : ∀ j, t.stateOf j = .active ↔ j = old) :
    BanksLaw ((t.setState old .standby).setState k .active)
      ∧ ∀ j, ((t.setState old .standby).setState k .active).stateOf j ≠ .pending := by
  have hne : k ≠ old := by rintro rfl; rw [(hold k).mpr rfl] at hk; cases hk
  have hnone : ∀ j, ((t.setState old .standby).setState k .active).stateOf j ≠ .pending := by
    intro j
    rw [stateOf_setState, stateOf_setState]
    split
    · exact nofun
    next hj =>
      split
      · exact nofun
      · exact fun hp => hj (h.pending j k hp hk)
  refine ⟨⟨banksHeld_setState_of_validated (banksHeld_setState_of_validated h.toBanksHeld (.inr (.inr rfl)) ?_)
    (.inr (.inl rfl)) ?_, ⟨k, fun j => ?_⟩, fun i _ hi _ => absurd hi (hnone i)⟩, hnone⟩
  · exact .inr (.inl ((hold old).mpr rfl))
  · rw [stateOf_setState, if_neg hne]; exact .inl hk
  · rw [stateOf_setState, stateOf_setState]
    split
    next hj => exact iff_of_true rfl hj
    next hj =>
      split
      · exact iff_of_false nofun hj
      next ho => exact iff_of_false (fun ha => ho ((hold j).mp ha)) hj

/-- With the evaluator idle the swap leaves no bank PENDING, whatever was PENDING before it. -/
theorem tablesLaw_swapPending {s : State} (h : BanksLaw s.tables) (hidle : s.current = none) :
    TablesLaw (swapPending s) := by
  unfold swapPending
  split
  next hp =>
    exact (tablesLaw_iff s).mpr ⟨h, fun c hc => (nomatch hidle.symm.trans hc), fun ⟨j, hj⟩ => absurd hj (pendingBank_eq_none.mp hp j)⟩
  next k hk =>
    obtain ⟨old, hold⟩ := h.active
    rw [activeBank_eq hold]
    have hn := emit_noticesOnly (.tableSwap k old) { s with tables := (s.tables.setState old .standby).setState k .active }
    obtain ⟨hbanks, hnone⟩ := banksLaw_swap h (stateOf_pendingBank hk) hold
    rw [tablesLaw_iff, hn.tables, hn.current]
    exact ⟨hbanks, fun c hc => (nomatch hidle.symm.trans hc), fun ⟨j, hj⟩ => absurd hj (hnone j)⟩

theorem swapPending_current (s : State) : (swapPending s).current = s.current := by
  unfold swapPending
  split
  · rfl
  · exact (emit_noticesOnly _ _).current

/-- An evaluation starts with the ACTIVE bank. -/
theorem tablesLaw_takeHead {s : State} (h : TablesLaw s) : TablesLaw (takeHead s) := by
  obtain ⟨hbanks, hbank, hidle⟩ := (tablesLaw_iff s).mp h
  unfold takeHead
  split
  next hc _ =>
    split
    · rw [tablesLaw_iff]
      refine ⟨hbanks, fun c hc => ?_, fun _ => nofun⟩
      cases hc
      exact stateOf_activeBank hbanks
    · exact h
  · exact h

/-- A state with the same banks whose evaluation, if there is one, works from a bank that an evaluation worked from before. -/
theorem tablesLaw_of_tables {s t : State} (h : TablesLaw s) (ht : t.tables = s.tables)
    (hc : t.current.map Current.bank = s.current.map Current.bank) : TablesLaw t := by
  obtain ⟨hbanks, hbank, hidle⟩ := (tablesLaw_iff s).mp h
  rw [tablesLaw_iff, ht]
  refine ⟨hbanks, fun c hcur => ?_, fun hp hnone => ?_⟩
  · rw [hcur, Option.map_some, eq_comm, Option.map_eq_some_iff] at hc
    obtain ⟨c', hc', hb⟩ := hc
    rw [← hb]
    exact hbank c' hc'
  · rw [hnone, Option.map_none, eq_comm, Option.map_eq_none_iff] at hc
    exact hidle hp hc

theorem tablesLaw_probesOnly {s t : State} (h : TablesLaw s) (hp : ProbesOnly s t) : TablesLaw t :=
  tablesLaw_of_tables h hp.tables (by rw [hp.current])

theorem tablesLaw_joinDueQueue {s : State} (z : ZoneId) (h : TablesLaw s) : TablesLaw (joinDueQueue z s) :=
  tablesLaw_takeHead (tablesLaw_of_tables (t := enqueue z s) h rfl rfl)

theorem tablesLaw_defineZone {s : State} (z : ZoneId) (d : ZoneDef) (h : TablesLaw s) : TablesLaw (defineZone z d s) := by
  have hset : ∀ r, TablesLaw (s.setZone z r) := fun r => tablesLaw_of_tables h rfl rfl
  have hcount : ∀ r, TablesLaw (countFree (s.setZone z r)) := fun r => tablesLaw_of_tables (hset r) rfl rfl
  unfold defineZone
  dsimp only
  repeat' split
  · exact tablesLaw_joinDueQueue z (tablesLaw_probesOnly (hcount _) (recomputeMembers_probesOnly _ _))
  · exact tablesLaw_probesOnly (tablesLaw_joinDueQueue z (hcount _)) (recomputeMembers_probesOnly _ _)
  · exact tablesLaw_probesOnly (tablesLaw_joinDueQueue z (hset _)) (recomputeMembers_probesOnly _ _)

theorem tablesLaw_closeZone {s : State} (z : ZoneId) (r : Zone) (h : TablesLaw s) : TablesLaw (closeZone z r s) := by
  refine tablesLaw_probesOnly (tablesLaw_of_tables (t := leaveCycle z (s.setZone z none)) h rfl ?_)
    (recomputeMembers_probesOnly _ _)
  show (s.current.map (Current.closing z)).map Current.bank = _
  rw [Option.map_map]
  congr 1
  funext c
  unfold Function.comp Current.closing
  split <;> rfl

/-- The completion's own writes leave the banks alone. -/
theorem completeFor_tables (c : Current) (s : State) : (completeFor c s).tables = s.tables := by
  unfold completeFor
  repeat' split
  · unfold completeZone
    rw [(zoneOnsets_noticesOnly _ _ _).tables]
    repeat' split
    · exact (recomputeMembers_probesOnly _ _).tables
    · exact (recomputeMembers_probesOnly _ _).tables.trans (emit_noticesOnly _ _).tables
    · rfl
    · exact (emit_noticesOnly _ _).tables
  · rfl
  · rfl

theorem tablesLaw_completeEvaluation {s : State} (c : Current) (h : TablesLaw s) : TablesLaw (completeEvaluation c s) := by
  refine tablesLaw_takeHead (tablesLaw_swapPending ?_ rfl)
  show BanksLaw (completeFor c s).tables
  rw [completeFor_tables]
  exact ((tablesLaw_iff s).mp h).1

/-! ### A bank becomes PENDING -/

/-- A bank that is fit becomes PENDING, and ACTIVE at once with the evaluator idle. -/
theorem tablesLaw_makePending {s : State} {k : BankId} (h : TablesLaw s) (hp : s.tables.pendingBank = none)
    (hload : s.tables.stateOf k ≠ .loading) (hact : s.tables.stateOf k ≠ .active)
    (hfit : ∀ b, s.tables.loadable k = some b → BankLaw { b with state := .pending }) : TablesLaw (makePending k s) := by
  obtain ⟨hbanks, hbank, -⟩ := (tablesLaw_iff s).mp h
  have hnone := pendingBank_eq_none.mp hp
  have hlaw : BanksLaw (s.tables.setState k .pending) := by
    refine ⟨banksHeld_setState hbanks.toBanksHeld (.inl rfl) hload hfit, ?_, fun i j hi hj => ?_⟩
    · obtain ⟨old, hold⟩ := hbanks.active
      refine ⟨old, fun j => ?_⟩
      rw [stateOf_setState]
      split
      next hj => subst hj; exact iff_of_false nofun fun ho => hact ((hold j).mpr ho)
      next => exact hold j
    · rw [stateOf_setState] at hi hj
      split at hi
      next hik =>
        split at hj
        next hjk => exact hik.trans hjk.symm
        next => exact absurd hj (hnone j)
      next => exact absurd hi (hnone i)
  unfold makePending
  dsimp only
  split
  next hidle => exact tablesLaw_swapPending hlaw (by simpa using hidle)
  next hbusy =>
    refine (tablesLaw_iff _).mpr ⟨hlaw, fun c hc => ?_, fun _ hidle => hbusy (by simpa using hidle)⟩
    have hcb := hbank c hc
    show (s.tables.setState k .pending).stateOf c.bank = .active
    rw [stateOf_setState, if_neg (by rintro rfl; exact hact hcb)]
    exact hcb

end Sys2Proof.Machine
end

section
/-! The load along a step (R54 to R58) and the two resets (R70, R71), with the law of the banks that every step keeps. -/

namespace Sys2Proof.Machine

/-! ### A loadable bank is written -/

/-- A loadable bank that is not ACTIVE is written as a bank that is not validated, with the cursor that goes with it. -/
theorem banksLaw_setBank {t : Tables} {k : BankId} {b b' : Bank} {cur : Option LoadCursor} (h : BanksLaw t)
    (hb : t.loadable k = some b) (hold : b.state ≠ .active) (hnew : ¬b'.state.validated) (hlaw : BankLaw b')
    (hload : ∀ j, j ≠ k → t.stateOf j = .loading → b'.state ≠ .loading)
    (hcur : CursorLaw { t.setBank k b' with cursor := cur }) : BanksLaw { t.setBank k b' with cursor := cur } := by
  have hstate : ∀ j, { t.setBank k b' with cursor := cur }.stateOf j = if j = k then b'.state else t.stateOf j :=
    fun j => by rw [stateOf_withCursor, stateOf_setBank hb]
  have hk := stateOf_of_loadable hb
  refine ⟨⟨?_, fun j c hc => ?_, fun i j hi hj => ?_, hcur⟩, ?_, fun i j hi hj => ?_⟩
  · show (t.setBank k b').rom.validated
    rw [setBank_rom]; exact h.rom
  · rw [loadable_withCursor, loadable_setBank hb] at hc
    split at hc
    · cases hc; exact hlaw
    · exact h.banks j c hc
  · rw [hstate] at hi hj
    split at hi
    next hik =>
      split at hj
      next hjk => exact hik.trans hjk.symm
      next hjk => exact absurd hi (hload j hjk hj)
    next hik =>
      split at hj
      next => exact absurd hj (hload i hik hi)
      next => exact h.loading i j hi hj
  · obtain ⟨old, ho⟩ := h.active
    refine ⟨old, fun j => ?_⟩
    rw [hstate]
    split
    next hj =>
      subst hj
      exact iff_of_false (fun ha => hnew (.inr (.inl ha)))
        fun hjo => hold (hk.symm.trans ((ho j).mpr hjo))
    next => exact ho j
  · rw [hstate] at hi hj
    split at hi
    · exact absurd (.inl hi) hnew
    · split at hj
      · exact absurd (.inl hj) hnew
      · exact h.pending i j hi hj

/-! ### TABLE-BEGIN -/

theorem bankLaw_begun {n : Nat} (hn : 2 ≤ n ∧ n ≤ 64) : BankLaw (Bank.begun n) :=
  ⟨hn.1, hn.2, Nat.lt_of_lt_of_le Nat.zero_lt_two hn.1⟩

theorem abandonLoad_state (b : Bank) :
    b.abandonLoad.state ≠ .loading ∧ ∀ v : BankState, v.validated → (b.abandonLoad.state = v ↔ b.state = v) := by
  unfold Bank.abandonLoad
  split
  next h => exact ⟨nofun, fun v hv => by obtain rfl | rfl | rfl := hv <;> simp [Bank.emptyBank, h]⟩
  next h => exact ⟨h, fun _ _ => Iff.rfl⟩

theorem bankLaw_abandonLoad {b : Bank} (h : BankLaw b) : BankLaw b.abandonLoad := by
  unfold Bank.abandonLoad
  split
  · exact rfl
  · exact h

/-- The banks as they are with no bank LOADING and no cursor, as TABLE-BEGIN finds them after its first step (R54 step 1). -/
def Tables.abandoned (t : Tables) : Tables := { t with a := t.a.abandonLoad, b := t.b.abandonLoad, cursor := none }

theorem loadable_abandoned (t : Tables) (k : BankId) : t.abandoned.loadable k = (t.loadable k).map Bank.abandonLoad := by
  cases k <;> rfl

theorem stateOf_abandoned {t : Tables} {v : BankState} (hv : v.validated) (j : BankId) :
    t.abandoned.stateOf j = v ↔ t.stateOf j = v := by
  cases j
  · exact Iff.rfl
  · exact (abandonLoad_state t.a).2 v hv
  · exact (abandonLoad_state t.b).2 v hv

theorem abandoned_ne_loading {t : Tables} (hr : t.rom.validated) (j : BankId) : t.abandoned.stateOf j ≠ .loading := by
  cases j
  · exact hr.ne_loading
  · exact (abandonLoad_state t.a).1
  · exact (abandonLoad_state t.b).1

theorem banksLaw_abandoned {t : Tables} (h : BanksLaw t) : BanksLaw t.abandoned := by
  refine ⟨⟨h.rom, fun k b hb => ?_, fun i _ hi _ => absurd hi (abandoned_ne_loading h.rom i), ?_⟩, ?_, fun i j hi hj => ?_⟩
  · rw [loadable_abandoned] at hb
    obtain ⟨b', hb', rfl⟩ := Option.map_eq_some_iff.mp hb
    exact bankLaw_abandonLoad (h.banks k b' hb')
  · exact (cursorLaw_none rfl).mpr fun j => .inl (abandoned_ne_loading h.rom j)
  · obtain ⟨old, ho⟩ := h.active
    exact ⟨old, fun j => (stateOf_abandoned (.inr (.inl rfl)) j).trans (ho j)⟩
  · exact h.pending i j ((stateOf_abandoned (.inl rfl) i).mp hi) ((stateOf_abandoned (.inl rfl) j).mp hj)

theorem begin_eq (t : Tables) (k : BankId) (n : Nat) : t.begin k n =
    { t.abandoned.setBank k (Bank.begun n) with cursor := some { bank := k, entry := 0, position := .temperature } } := by
  cases k <;> rfl

theorem banksLaw_begin {t : Tables} {k : BankId} {b : Bank} {n : Nat} (h : BanksLaw t) (hb : t.loadable k = some b)
    (hn : 2 ≤ n ∧ n ≤ 64) (hs : b.state ≠ .active) : BanksLaw (t.begin k n) := by
  have hb' : t.abandoned.loadable k = some b.abandonLoad := by rw [loadable_abandoned, hb, Option.map_some]
  rw [begin_eq]
  refine banksLaw_setBank (banksLaw_abandoned h) hb' (fun ha => hs (((abandonLoad_state b).2 _ (.inr (.inl rfl))).mp ha))
    (by rintro (h | h | h) <;> cases h) (bankLaw_begun hn) (fun j _ hj => absurd hj (abandoned_ne_loading h.rom j)) ?_
  refine ⟨Bank.begun n, _, ?_, rfl, rfl, rfl, iff_of_false nofun nofun⟩
  obtain ⟨rfl, -⟩ | ⟨rfl, -⟩ := loadable_eq_some hb <;> rfl

/-! ### Elements -/

/-- What the laws say of a bank on which the cursor stands, and of the element that it takes there (R56). -/
theorem cursorLaw_some {t : Tables} {cur : LoadCursor} (h : BanksLaw t) (hc : t.cursor = some cur) :
    ∃ b c, t.loadable cur.bank = some b ∧ b.state = .loading ∧ b.contents = some c ∧ cur.entry = c.entries.length
      ∧ (cur.position = .pressure ↔ c.partialTemp.isSome = true)
      ∧ 2 ≤ c.declared ∧ c.declared ≤ 64 ∧ c.entries.length < c.declared := by
  have hcur := h.cursor
  unfold CursorLaw at hcur
  rw [hc] at hcur
  obtain ⟨b, c, hb, hst, hcon, hent, hpos⟩ := hcur
  have hlaw := h.banks _ b hb
  unfold BankLaw at hlaw
  rw [hst, hcon] at hlaw
  exact ⟨b, c, hb, hst, hcon, hent, hpos, hlaw⟩

theorem check_kept (c : BankContents) (e : Nat) (lo hi : Byte) :
    (c.check e lo hi).declared = c.declared ∧ (c.check e lo hi).entries = c.entries := by
  unfold BankContents.check
  split <;> exact ⟨rfl, rfl⟩

/-- The temperature of an entry waits in the partial entry (R56). -/
theorem writeElement_temperature {t : Tables} {cur : LoadCursor} {b : Bank} {c : BankContents} (hc : t.cursor = some cur)
    (hb : t.loadable cur.bank = some b) (hcon : b.contents = some c) (hpos : cur.position = .temperature) (lo hi : Byte) :
    t.writeElement lo hi =
      { t.setBank cur.bank { b with contents := some { c.check cur.entry lo hi with partialTemp := some (signed16 lo hi) } } with
        cursor := some { cur with position := .pressure } } := by
  unfold Tables.writeElement
  simp only [hc, hb, hcon, hpos]

/-- The pressure of an entry completes it, and the declared entry completes the bank (R56). -/
theorem writeElement_pressure {t : Tables} {cur : LoadCursor} {b : Bank} {c : BankContents} {temp : Int}
    (hc : t.cursor = some cur) (hb : t.loadable cur.bank = some b) (hcon : b.contents = some c)
    (hpos : cur.position = .pressure) (ht : c.partialTemp = some temp) (lo hi : Byte) {full : BankContents}
    (hfull : full = { c.check cur.entry lo hi with
      entries := c.entries ++ [{ temp := temp, pressure := unsigned16 lo hi }], partialTemp := none }) :
    t.writeElement lo hi =
      if c.entries.length + 1 = c.declared then
        { t.setBank cur.bank { state := .loaded, contents := some full } with cursor := none }
      else { t.setBank cur.bank { b with contents := some full } with
        cursor := some { cur with entry := cur.entry + 1, position := .temperature } } := by
  unfold Tables.writeElement
  simp only [hc, hb, hcon, hpos, ht, hfull, List.length_append, List.length_singleton]

theorem loadable_setBank_cursor {t : Tables} {k : BankId} {b : Bank} (h : t.loadable k = some b) (b' : Bank)
    (cur : Option LoadCursor) : { t.setBank k b' with cursor := cur }.loadable k = some b' := by
  obtain ⟨rfl, -⟩ | ⟨rfl, -⟩ := loadable_eq_some h <;> rfl

theorem banksLaw_writeElement {t : Tables} (h : BanksLaw t) (lo hi : Byte) : BanksLaw (t.writeElement lo hi) := by
  cases hc : t.cursor with
  | none => unfold Tables.writeElement; rw [hc]; exact h
  | some cur =>
    obtain ⟨b, c, hb, hst, hcon, hent, hpos, h2, h64, hlt⟩ := cursorLaw_some h hc
    obtain ⟨hdecl, hentries⟩ := check_kept c cur.entry lo hi
    have hne : b.state ≠ .active := by rw [hst]; exact nofun
    have hnv : ¬b.state.validated := by rw [hst]; rintro (h | h | h) <;> cases h
    have hother : ∀ j, j ≠ cur.bank → t.stateOf j ≠ .loading := fun j hj hl =>
      hj (h.loading j _ hl ((stateOf_of_loadable hb).trans hst))
    cases hp : cur.position with
    | temperature =>
      rw [writeElement_temperature hc hb hcon hp]
      refine banksLaw_setBank h hb hne hnv ?_ (fun j hj hl => absurd hl (hother j hj)) ?_
      · simp only [BankLaw, hst, hdecl, hentries]
        exact ⟨h2, h64, hlt⟩
      · exact ⟨_, _, loadable_setBank_cursor hb _ _, hst, rfl, by rw [hentries]; exact hent, iff_of_true rfl rfl⟩
    | pressure =>
      obtain ⟨temp, ht⟩ := Option.isSome_iff_exists.mp (hpos.mp hp)
      rw [writeElement_pressure hc hb hcon hp ht lo hi rfl]
      split
      next hlast =>
        refine banksLaw_setBank h hb hne (by rintro (h | h | h) <;> cases h) ?_ (fun _ _ _ => nofun) ?_
        · simp only [BankLaw, hdecl, List.length_append, List.length_singleton]
          exact ⟨h2, h64, hlast, trivial⟩
        · refine (cursorLaw_none rfl).mpr fun j => ?_
          by_cases hj : j = cur.bank
          · subst hj
            exact .inl (by rw [stateOf_of_loadable (loadable_setBank_cursor hb _ none)]; exact nofun)
          · refine .inl fun hl => hother j hj ?_
            rwa [stateOf_withCursor, stateOf_setBank hb, if_neg hj] at hl
      next hmore =>
        refine banksLaw_setBank h hb hne hnv ?_ (fun j hj hl => absurd hl (hother j hj)) ?_
        · simp only [BankLaw, hst, hdecl, List.length_append, List.length_singleton]
          exact ⟨h2, h64, by omega⟩
        · refine ⟨_, _, loadable_setBank_cursor hb _ _, hst, rfl, ?_, iff_of_false nofun nofun⟩
          simp [hent]

/-! ### Resets -/

theorem tablesLaw_of_idle {s : State} (h : BanksLaw s.tables) (hp : ∀ j, s.tables.stateOf j ≠ .pending)
    (hc : s.current = none) : TablesLaw s :=
  (tablesLaw_iff s).mpr ⟨h, fun _ hcur => (nomatch hc.symm.trans hcur), fun ⟨j, hj⟩ => absurd hj (hp j)⟩

theorem banksLaw_reset : BanksLaw Tables.reset := by
  refine ⟨⟨.inr (.inl rfl), fun k b hb => ?_, ?_, ?_⟩, ⟨.rom, ?_⟩, ?_⟩
  · obtain ⟨-, rfl⟩ | ⟨-, rfl⟩ := loadable_eq_some hb <;> exact rfl
  · exact fun j k => by cases j <;> cases k <;> decide
  · exact ⟨nofun, nofun⟩
  · exact fun j => by cases j <;> decide
  · exact fun j k => by cases j <;> cases k <;> decide

theorem restarted_state (b : Bank) :
    b.restarted.state = .standby ∨ b.restarted.state = .loaded ∨ b.restarted.state = .empty := by
  unfold Bank.restarted
  split
  · exact .inl rfl
  · exact .inl rfl
  · exact .inl rfl
  next h => exact .inr (.inl h)
  · exact .inr (.inr rfl)
  · exact .inr (.inr rfl)

theorem bankLaw_restarted {b : Bank} (h : BankLaw b) : BankLaw b.restarted := by
  unfold Bank.restarted
  split
  next hb => exact bankLaw_of_validated h (.inr (.inl hb)) (.inr (.inr rfl))
  next hb => exact bankLaw_of_validated h (.inl hb) (.inr (.inr rfl))
  next hb => exact bankLaw_of_validated h (.inr (.inr hb)) (.inr (.inr rfl))
  · exact h
  · exact rfl
  · exact rfl

theorem stateOf_restarted (t : Tables) (j : BankId) :
    t.restarted.stateOf j ≠ .pending ∧ t.restarted.stateOf j ≠ .loading ∧ (t.restarted.stateOf j = .active ↔ j = .rom) := by
  cases j
  · exact ⟨nofun, nofun, iff_of_true rfl rfl⟩
  · obtain h | h | h := restarted_state t.a <;> simp [Tables.restarted, Tables.stateOf, h]
  · obtain h | h | h := restarted_state t.b <;> simp [Tables.restarted, Tables.stateOf, h]

theorem banksLaw_restarted {t : Tables} (h : BanksLaw t) : BanksLaw t.restarted := by
  refine ⟨⟨.inr (.inl rfl), fun k b hb => ?_, fun j _ hj _ => ?_, ?_⟩, ⟨.rom, fun j => (stateOf_restarted t j).2.2⟩,
    fun j _ hj _ => absurd hj (stateOf_restarted t j).1⟩
  · obtain ⟨-, rfl⟩ | ⟨-, rfl⟩ := loadable_eq_some hb
    · exact bankLaw_restarted (h.banks .a _ rfl)
    · exact bankLaw_restarted (h.banks .b _ rfl)
  · exact absurd hj (stateOf_restarted t j).2.1
  · exact (cursorLaw_none rfl).mpr fun j => .inl (stateOf_restarted t j).2.1

/-! ### Every effect -/

/-- The banks change and the evaluation does not: no bank becomes PENDING, and the evaluation's bank stays ACTIVE. -/
theorem tablesLaw_of_banks {s : State} {t : Tables} (h : TablesLaw s) (hb : BanksLaw s.tables → BanksLaw t)
    (hact : ∀ j, s.tables.stateOf j = .active → t.stateOf j = .active)
    (hpend : ∀ j, t.stateOf j = .pending → s.tables.stateOf j = .pending) : TablesLaw { s with tables := t } := by
  obtain ⟨hbanks, hbank, hidle⟩ := (tablesLaw_iff s).mp h
  exact (tablesLaw_iff _).mpr ⟨hb hbanks, fun _ hc => hact _ (hbank _ hc), fun ⟨j, hj⟩ => hidle ⟨j, hpend j hj⟩⟩

theorem tablesLaw_begin {s : State} {k : BankId} {b : Bank} {n : Nat} (h : TablesLaw s)
    (hb : s.tables.loadable k = some b) (hn : 2 ≤ n ∧ n ≤ 64) (hs : ¬(b.state = .active ∨ b.state = .pending)) :
    TablesLaw { s with tables := s.tables.begin k n } := by
  have hstate : ∀ j, (s.tables.begin k n).stateOf j = if j = k then .loading else s.tables.abandoned.stateOf j := by
    intro j
    obtain ⟨rfl, -⟩ | ⟨rfl, -⟩ := loadable_eq_some hb <;> cases j <;> rfl
  refine tablesLaw_of_banks h (fun hbanks => banksLaw_begin hbanks hb hn fun ha => hs (.inl ha)) (fun j hj => ?_) fun j hj => ?_
  · rw [hstate, if_neg (by rintro rfl; exact hs (.inl ((stateOf_of_loadable hb).symm.trans hj)))]
    exact (stateOf_abandoned (.inr (.inl rfl)) j).mpr hj
  · rw [hstate] at hj
    split at hj
    · cases hj
    · exact (stateOf_abandoned (.inl rfl) j).mp hj

/-- An element changes the state of no bank but the LOADING one, which it may leave LOADED. -/
theorem stateOf_writeElement {t : Tables} (h : BanksLaw t) (lo hi : Byte) (j : BankId) :
    (t.writeElement lo hi).stateOf j = t.stateOf j
      ∨ t.stateOf j = .loading ∧ (t.writeElement lo hi).stateOf j = .loaded := by
  cases hc : t.cursor with
  | none => unfold Tables.writeElement; rw [hc]; exact .inl rfl
  | some cur =>
    obtain ⟨b, _, hb, hst, hcon, -, hpos, -⟩ := cursorLaw_some h hc
    have hset : ∀ (b' : Bank) (cur' : Option LoadCursor), { t.setBank cur.bank b' with cursor := cur' }.stateOf j
        = if j = cur.bank then b'.state else t.stateOf j := fun b' cur' => by
      rw [stateOf_withCursor, stateOf_setBank hb]
    have hsame : ∀ (b' : Bank) (cur' : Option LoadCursor), b'.state = b.state →
        { t.setBank cur.bank b' with cursor := cur' }.stateOf j = t.stateOf j := by
      intro b' cur' hb'
      rw [hset]
      split
      next hj => subst hj; exact hb'.trans (stateOf_of_loadable hb).symm
      next => rfl
    cases hp : cur.position with
    | temperature => rw [writeElement_temperature hc hb hcon hp]; exact .inl (hsame _ _ rfl)
    | pressure =>
      obtain ⟨temp, ht⟩ := Option.isSome_iff_exists.mp (hpos.mp hp)
      rw [writeElement_pressure hc hb hcon hp ht lo hi rfl]
      split
      · rw [hset]
        split
        next hj => subst hj; exact .inr ⟨(stateOf_of_loadable hb).trans hst, rfl⟩
        next => exact .inl rfl
      · exact .inl (hsame _ _ rfl)

theorem tablesLaw_writeElement {s : State} (h : TablesLaw s) (lo hi : Byte) :
    TablesLaw { s with tables := s.tables.writeElement lo hi } := by
  have hstate := stateOf_writeElement ((tablesLaw_iff s).mp h).1 lo hi
  refine tablesLaw_of_banks h (fun hb => banksLaw_writeElement hb lo hi) (fun j hj => ?_) fun j hj => ?_
  · obtain h | ⟨h, -⟩ := hstate j
    · exact h.trans hj
    · cases hj.symm.trans h
  · obtain h | ⟨-, h⟩ := hstate j
    · exact h.symm.trans hj
    · cases hj.symm.trans h

theorem effect_keeps_tablesLaw (s t : State) (e : Effect s t) (h : TablesLaw s) : TablesLaw t := by
  obtain ⟨hbanks, -, -⟩ := (tablesLaw_iff s).mp h
  cases e with
  | begin k b n _ hb hn hs => exact tablesLaw_begin h hb hn hs
  | element lo hi => exact tablesLaw_writeElement h lo hi
  | commit k b c _ hb hs hc hp ho =>
    have hk := (stateOf_of_loadable hb).trans hs
    refine tablesLaw_makePending h hp (by rw [hk]; exact nofun) (by rw [hk]; exact nofun) fun b' hb' => ?_
    cases hb.symm.trans hb'
    exact bankLaw_of_loaded (hbanks.banks k b hb) hs hc (entriesRise_of_orderFailure ho) (.inl rfl)
  | select k _ hs hp =>
    refine tablesLaw_makePending h hp (by rw [hs]; exact nofun) (by rw [hs]; exact nofun) fun b hb => ?_
    exact bankLaw_of_validated (hbanks.banks k b hb) (.inr (.inr ((stateOf_of_loadable hb).symm.trans hs))) (.inl rfl)
  | reset => exact tablesLaw_of_idle banksLaw_reset (fun j => by cases j <;> exact nofun) rfl
  | restart => exact tablesLaw_of_idle (banksLaw_restarted hbanks) (fun j => (stateOf_restarted _ j).1) rfl
  | define => exact tablesLaw_defineZone _ _ h
  | close => exact tablesLaw_closeZone _ _ h
  | expiry z r t _ hz => exact tablesLaw_joinDueQueue z (tablesLaw_of_tables h rfl rfl)
  | completion c => exact tablesLaw_completeEvaluation c h
  | enrol => exact tablesLaw_probesOnly h (missIfFaulted_setSlot_probesOnly _ _ _)
  | release => exact tablesLaw_probesOnly h (missIfFaulted_setSlot_probesOnly _ _ _)
  | due => exact tablesLaw_probesOnly h (missIfFaulted_setSlot_probesOnly _ _ _)
  | heatEnd => exact tablesLaw_probesOnly h (endHeat_probesOnly _ _ _)
  | early =>
    have hl := complete_linesOnly
    exact tablesLaw_of_tables h (hl _ _ _ _ _ _).tables (by rw [(hl _ _ _ _ _ _).current])
  | whole =>
    have hl := complete_linesOnly
    exact tablesLaw_of_tables h (hl _ _ _ _ _ _).tables (by rw [(hl _ _ _ _ _ _).current])
  | fault =>
    have hl := enterFault_linesOnly
    exact tablesLaw_of_tables h (hl _ _ _).tables (by rw [(hl _ _ _).current])
  | recovery =>
    have hn := emit_noticesOnly
    exact tablesLaw_of_tables h (hn _ _).tables (by rw [(hn _ _).current]; rfl)
  | _ => exact tablesLaw_of_tables h rfl rfl

/-- Settles O54: a bank becomes ACTIVE only by a swap, which ends the ACTIVE state of the old one, with the evaluator idle. -/
theorem stepKeepsTablesLaw : Obligations.StepKeepsTablesLaw :=
  fun _ _ => step_keeps (fun _ _ h => tablesLaw_of_tables h rfl rfl) effect_keeps_tablesLaw

end Sys2Proof.Machine
end

section
/-! The evaluator's cycle along a step (R6, R22, R23): which operations leave zones, due queue and evaluation alone, and the law of
the cycle without its last clause, which the taking of the head restores. -/

namespace Sys2Proof.Machine

/-! ### Zones, due queue and evaluation -/

/-- Two states hold the same zones, due queue and evaluation. -/
structure SameCycle (s t : State) : Prop where
  zones : t.zones = s.zones
  dueQueue : t.dueQueue = s.dueQueue
  current : t.current = s.current

namespace SameCycle
variable {s t u : State}

theorem refl (s : State) : SameCycle s s := ⟨rfl, rfl, rfl⟩

theorem trans (h : SameCycle s t) (k : SameCycle t u) : SameCycle s u :=
  ⟨k.zones.trans h.zones, k.dueQueue.trans h.dueQueue, k.current.trans h.current⟩

theorem zone (h : SameCycle s t) (z : ZoneId) : t.zone z = s.zone z := by unfold State.zone; rw [h.zones]

theorem underEvaluation_iff (h : SameCycle s t) (z : ZoneId) : underEvaluation t z ↔ underEvaluation s z := by
  unfold underEvaluation; rw [h.current]

end SameCycle

theorem ProbesOnly.sameCycle {s t : State} (h : ProbesOnly s t) : SameCycle s t := ⟨h.zones, h.dueQueue, h.current⟩

theorem NoticesOnly.sameCycle {s t : State} (h : NoticesOnly s t) : SameCycle s t := h.probes.sameCycle

theorem LinesOnly.sameCycle {s t : State} (h : LinesOnly s t) : SameCycle s t := ⟨h.zones, h.dueQueue, h.current⟩

theorem swapPending_sameCycle (s : State) : SameCycle s (swapPending s) := by
  unfold swapPending
  split
  · exact .refl s
  · refine SameCycle.trans ?_ (emit_noticesOnly _ _).sameCycle
    exact ⟨rfl, rfl, rfl⟩

theorem makePending_sameCycle (k : BankId) (s : State) : SameCycle s (makePending k s) := by
  unfold makePending
  dsimp only
  split
  · refine SameCycle.trans ?_ (swapPending_sameCycle _)
    exact ⟨rfl, rfl, rfl⟩
  · exact ⟨rfl, rfl, rfl⟩

/-- A completion writes its own zone and nothing else of the cycle. -/
theorem completeZone_sameCycle (z : ZoneId) (r : Zone) (c : Current) (s : State) :
    SameCycle (s.setZone z (some (zoneAfter s c r))) (completeZone z r c s) := by
  unfold completeZone
  dsimp only
  refine SameCycle.trans ?_ (zoneOnsets_noticesOnly _ _ _).sameCycle
  repeat' split
  · exact (recomputeMembers_probesOnly _ _).sameCycle
  · exact (emit_noticesOnly _ _).sameCycle.trans (recomputeMembers_probesOnly _ _).sameCycle
  · exact .refl _
  · exact (emit_noticesOnly _ _).sameCycle

/-- A definition writes the zone and lets it join the due queue; the recomputation stands before or after. -/
theorem defineZone_sameCycle (z : ZoneId) (d : ZoneDef) (s : State) :
    ∃ u, SameCycle (s.setZone z (some (.defined d))) u ∧ SameCycle (joinDueQueue z u) (defineZone z d s) := by
  unfold defineZone
  dsimp only
  repeat' split
  · refine ⟨_, SameCycle.trans ?_ (recomputeMembers_probesOnly d.members (countFree (s.setZone z _))).sameCycle, .refl _⟩
    exact ⟨rfl, rfl, rfl⟩
  · exact ⟨countFree (s.setZone z (some (.defined d))), ⟨rfl, rfl, rfl⟩, (recomputeMembers_probesOnly _ _).sameCycle⟩
  · exact ⟨_, .refl _, (recomputeMembers_probesOnly _ _).sameCycle⟩

theorem closeZone_sameCycle (z : ZoneId) (r : Zone) (s : State) :
    SameCycle (leaveCycle z (s.setZone z none)) (closeZone z r s) := (recomputeMembers_probesOnly _ _).sameCycle

theorem completeEvaluation_eq (c : Current) (s : State) :
    ∃ u, SameCycle (endEvaluation (completeFor c s)) u ∧ completeEvaluation c s = takeHead u :=
  ⟨_, swapPending_sameCycle _, rfl⟩

/-- What an effect does to zones, due queue and evaluation: nothing, or one of the five events of the cycle. -/
theorem Effect.cycle_cases {s t : State} (e : Effect s t) :
    SameCycle s t
      ∨ (∃ z d, s.zone z = none ∧ (∃ w a h i o rest, h ≤ 255 ∧ parseDefinition w a h i o rest = some d)
          ∧ memberFailure s d = none ∧ t = defineZone z d s)
      ∨ (∃ z r, s.zone z = some r ∧ t = closeZone z r s)
      ∨ (∃ z r x, s.zone z = some r ∧ r.expiry = some x
          ∧ t = joinDueQueue z (s.setZone z (some { r with expiry := none, dueMark := true })))
      ∨ (∃ c, s.current = some c ∧ t = completeEvaluation c s)
      ∨ ∃ ts rate, t = resetAll ts rate s := by
  cases e with
  | define z w a h i o rest d _ hh hp hz hm => exact .inr (.inl ⟨z, d, hz, ⟨w, a, h, i, o, rest, hh, hp⟩, hm, rfl⟩)
  | close z r _ h => exact .inr (.inr (.inl ⟨z, r, h, rfl⟩))
  | expiry z r x _ h hx => exact .inr (.inr (.inr (.inl ⟨z, r, x, h, hx, rfl⟩)))
  | completion c _ h => exact .inr (.inr (.inr (.inr (.inl ⟨c, h, rfl⟩))))
  | reset => exact .inr (.inr (.inr (.inr (.inr ⟨_, _, rfl⟩))))
  | restart => exact .inr (.inr (.inr (.inr (.inr ⟨_, _, rfl⟩))))
  | enrol => exact .inl (missIfFaulted_setSlot_probesOnly _ _ _).sameCycle
  | release => exact .inl (missIfFaulted_setSlot_probesOnly _ _ _).sameCycle
  | due => exact .inl (missIfFaulted_setSlot_probesOnly _ _ _).sameCycle
  | heatEnd => exact .inl (endHeat_probesOnly _ _ _).sameCycle
  | commit => exact .inl (makePending_sameCycle _ _)
  | select => exact .inl (makePending_sameCycle _ _)
  | early => exact .inl (complete_linesOnly _ _ _ _ _ _).sameCycle
  | whole => exact .inl (complete_linesOnly _ _ _ _ _ _).sameCycle
  | fault => exact .inl (enterFault_linesOnly _ _ _).sameCycle
  | recovery l => exact .inl ((setLine_linesOnly l _ s).trans (emit_noticesOnly _ _).probes.linesOnly).sameCycle
  | _ => exact .inl ⟨rfl, rfl, rfl⟩

/-! ### The law of the cycle -/

/-- The law of the cycle while the evaluator may be about to take the head of the queue. -/
structure CycleHeld (s : State) : Prop where
  nodup : s.dueQueue.Nodup
  mem_iff : ∀ z, z ∈ s.dueQueue ↔ ∃ r, s.zone z = some r ∧ r.dueMark = true
  under : ∀ z, underEvaluation s z → ∃ r, s.zone z = some r ∧ r.dueMark = false ∧ r.expiry = none
  waits : ∀ z r, s.zone z = some r → ¬underEvaluation s z → r.dueMark = r.expiry.isNone

theorem cycleLaw_iff (s : State) : CycleLaw s ↔ CycleHeld s ∧ (s.current = none → s.dueQueue = []) :=
  ⟨fun ⟨h1, h2, h3, h4, h5⟩ => ⟨⟨h1, h2, h3, h4⟩, h5⟩, fun ⟨⟨h1, h2, h3, h4⟩, h5⟩ => ⟨h1, h2, h3, h4, h5⟩⟩

theorem CycleHeld.congr {s t : State} (h : CycleHeld s) (k : SameCycle s t) : CycleHeld t := by
  obtain ⟨h1, h2, h3, h4⟩ := h
  refine ⟨?_, fun z => ?_, fun z hz => ?_, fun z r hr hu => ?_⟩
  · rw [k.dueQueue]; exact h1
  · rw [k.dueQueue, k.zone]; exact h2 z
  · rw [k.zone]; exact h3 z ((k.underEvaluation_iff z).mp hz)
  · rw [k.zone] at hr
    exact h4 z r hr fun hz => hu ((k.underEvaluation_iff z).mpr hz)

theorem cycleLaw_congr {s t : State} (h : CycleLaw s) (k : SameCycle s t) : CycleLaw t := by
  obtain ⟨hheld, hidle⟩ := (cycleLaw_iff s).mp h
  exact (cycleLaw_iff t).mpr ⟨hheld.congr k, by rw [k.current, k.dueQueue]; exact hidle⟩

theorem underEvaluation_iff_of_current {s : State} {c : Current} (h : s.current = some c) (z : ZoneId) :
    underEvaluation s z ↔ c.zone = some z := by
  unfold underEvaluation
  rw [h]
  exact ⟨fun ⟨_, hc, hz⟩ => by cases hc; exact hz, fun hz => ⟨c, rfl, hz⟩⟩

theorem not_underEvaluation_of_idle {s : State} (h : s.current = none) (z : ZoneId) : ¬underEvaluation s z :=
  fun ⟨_, hc, _⟩ => nomatch h.symm.trans hc

/-- The evaluator takes the head of the queue: it has no mark and no timer any more, and the queue without it is as it was. -/
theorem cycleLaw_takeHead {s : State} (h : CycleHeld s) : CycleLaw (takeHead s) := by
  obtain hc | ⟨c, hc⟩ := Option.eq_none_or_eq_some s.current
  · obtain hq | ⟨z, rest, hq⟩ := dueQueue_cases s.dueQueue
    · rw [takeHead_empty hq]
      exact (cycleLaw_iff s).mpr ⟨h, fun _ => hq⟩
    · obtain ⟨hnodup, hmem, -, hwaits⟩ := h
      have hidle := not_underEvaluation_of_idle hc
      rw [hq] at hnodup hmem
      obtain ⟨hz, hrest⟩ := List.nodup_cons.mp hnodup
      obtain ⟨r, hr, hmark⟩ := (hmem z).mp List.mem_cons_self
      have hexp : r.expiry = none := by
        rw [← Option.isNone_iff_eq_none, ← hwaits z r hr (hidle z)]; exact hmark
      rw [takeHead_take hc hq hr]
      have hzone : ∀ y, State.zone { s.setZone z (some { r with dueMark := false }) with
          dueQueue := rest, current := some (evaluationOf s z r.defn) } y
            = if z = y then some { r with dueMark := false } else s.zone y := fun y => zone_setZone s z y _
      have hunder := fun y => underEvaluation_iff_of_current (s := { s.setZone z (some { r with dueMark := false }) with
          dueQueue := rest, current := some (evaluationOf s z r.defn) }) rfl y
      refine (cycleLaw_iff _).mpr ⟨⟨hrest, fun y => ?_, fun y hy => ?_, fun y q hq hy => ?_⟩, nofun⟩
      · rw [hzone]
        split
        next hzy => subst hzy; exact iff_of_false hz (by rintro ⟨q, hq, hm⟩; cases hq; cases hm)
        next hzy => rw [← hmem y, List.mem_cons]; exact ⟨.inr, fun hy => hy.resolve_left (Ne.symm hzy)⟩
      · obtain rfl : z = y := Option.some.inj ((hunder y).mp hy)
        exact ⟨_, (hzone z).trans (if_pos rfl), rfl, hexp⟩
      · have hzy : z ≠ y := by rintro rfl; exact hy ((hunder z).mpr rfl)
        rw [hzone, if_neg hzy] at hq
        exact hwaits y q hq (hidle y)
  · rw [takeHead_busy hc]
    exact (cycleLaw_iff s).mpr ⟨h, fun hn => (nomatch hn.symm.trans hc)⟩

/-- A zone that is neither in the queue nor under evaluation joins the queue with its mark set and its timer stopped. -/
theorem cycleHeld_enqueue {s : State} {z : ZoneId} {r : Zone} (h : CycleHeld s) (hz : z ∉ s.dueQueue)
    (hu : ¬underEvaluation s z) (hmark : r.dueMark = true) (hexp : r.expiry = none) :
    CycleHeld (enqueue z (s.setZone z (some r))) := by
  obtain ⟨hnodup, hmem, hunder, hwaits⟩ := h
  have hzone : ∀ y, (enqueue z (s.setZone z (some r))).zone y = if z = y then some r else s.zone y := fun y => zone_setZone s z y _
  have hsame : ∀ y, underEvaluation (enqueue z (s.setZone z (some r))) y ↔ underEvaluation s y := fun _ => Iff.rfl
  refine ⟨?_, fun y => ?_, fun y hy => ?_, fun y q hq hy => ?_⟩
  · refine List.nodup_append.mpr ⟨hnodup, List.pairwise_singleton _ z, fun y hy w hw => ?_⟩
    rw [List.mem_singleton.mp hw]
    exact fun heq => hz (heq ▸ hy)
  · show y ∈ s.dueQueue ++ [z] ↔ _
    rw [List.mem_append, List.mem_singleton, hzone]
    split
    next hzy => exact iff_of_true (.inr hzy.symm) ⟨r, rfl, hmark⟩
    next hzy => rw [← hmem y]; exact ⟨fun hy => hy.resolve_right (Ne.symm hzy), .inl⟩
  · have hzy : z ≠ y := by rintro rfl; exact hu hy
    rw [hzone, if_neg hzy]
    exact hunder y hy
  · rw [hzone] at hq
    split at hq
    · cases hq; rw [hmark, hexp]; rfl
    · exact hwaits y q hq hy

theorem cycleLaw_defineZone {s : State} {z : ZoneId} (d : ZoneDef) (h : CycleLaw s) (hz : s.zone z = none) :
    CycleLaw (defineZone z d s) := by
  obtain ⟨hheld, -⟩ := (cycleLaw_iff s).mp h
  have hnone : ∀ r, s.zone z ≠ some r := fun r hr => nomatch hz.symm.trans hr
  have hq : z ∉ s.dueQueue := fun hm => by
    obtain ⟨r, hr, -⟩ := (hheld.mem_iff z).mp hm
    exact hnone r hr
  have hu : ¬underEvaluation s z := fun hu => by
    obtain ⟨r, hr, -⟩ := hheld.under z hu
    exact hnone r hr
  obtain ⟨u, hset, hdef⟩ := defineZone_sameCycle z d s
  have hjoin : SameCycle (enqueue z (s.setZone z (some (.defined d)))) (enqueue z u) :=
    ⟨hset.zones, congrArg (· ++ [z]) hset.dueQueue, hset.current⟩
  exact cycleLaw_congr (cycleLaw_takeHead ((cycleHeld_enqueue hheld hq hu rfl rfl).congr hjoin)) hdef

theorem cycleLaw_expiry {s : State} {z : ZoneId} {r : Zone} {x : Time} (h : CycleLaw s) (hr : s.zone z = some r)
    (hx : r.expiry = some x) :
    CycleLaw (joinDueQueue z (s.setZone z (some { r with expiry := none, dueMark := true }))) := by
  obtain ⟨hheld, -⟩ := (cycleLaw_iff s).mp h
  have hu : ¬underEvaluation s z := fun hu => by
    obtain ⟨q, hq, -, he⟩ := hheld.under z hu
    cases hr.symm.trans hq
    cases hx.symm.trans he
  have hq : z ∉ s.dueQueue := fun hm => by
    obtain ⟨q, hq, hmark⟩ := (hheld.mem_iff z).mp hm
    cases hr.symm.trans hq
    have hnone := hheld.waits z r hr hu
    rw [hmark, hx] at hnone
    cases hnone
  exact cycleLaw_takeHead (cycleHeld_enqueue hheld hq hu rfl rfl)

/-- A closed zone is in no place of the cycle, and every other zone stands where it stood. -/
theorem cycleLaw_closeZone {s : State} (z : ZoneId) (r : Zone) (h : CycleLaw s) : CycleLaw (closeZone z r s) := by
  obtain ⟨⟨hnodup, hmem, hunder, hwaits⟩, hidle⟩ := (cycleLaw_iff s).mp h
  refine cycleLaw_congr ?_ (closeZone_sameCycle z r s)
  have hzone : ∀ y, (leaveCycle z (s.setZone z none)).zone y = if z = y then none else s.zone y := fun y => zone_setZone s z y _
  have hu : ∀ y, underEvaluation (leaveCycle z (s.setZone z none)) y ↔ underEvaluation s y ∧ z ≠ y := by
    intro y
    have hcur : (leaveCycle z (s.setZone z none)).current = s.current.map (Current.closing z) := rfl
    cases hc : s.current with
    | none =>
      exact iff_of_false (not_underEvaluation_of_idle (by rw [hcur, hc]; rfl) y)
        fun hy => not_underEvaluation_of_idle hc y hy.1
    | some c =>
      rw [underEvaluation_iff_of_current (c := c.closing z) (by rw [hcur, hc]; rfl), underEvaluation_iff_of_current hc]
      unfold Current.closing
      split
      next hz => exact iff_of_false nofun fun hy => hy.2 (Option.some.inj (hz.symm.trans hy.1))
      next hz => exact ⟨fun hy => ⟨hy, by rintro rfl; exact hz hy⟩, And.left⟩
  refine (cycleLaw_iff _).mpr ⟨⟨hnodup.filter _, fun y => ?_, fun y hy => ?_, fun y q hq hy => ?_⟩, fun hn => ?_⟩
  · show y ∈ s.dueQueue.filter (fun y => y != z) ↔ _
    rw [List.mem_filter, hzone, bne_iff_ne]
    split
    next hzy => exact iff_of_false (fun hy => hy.2 hzy.symm) (by rintro ⟨q, hq, -⟩; cases hq)
    next hzy => rw [← hmem y]; exact ⟨And.left, fun hy => ⟨hy, Ne.symm hzy⟩⟩
  · obtain ⟨hy, hzy⟩ := (hu y).mp hy
    rw [hzone, if_neg hzy]
    exact hunder y hy
  · rw [hzone] at hq
    split at hq
    · cases hq
    next hzy => exact hwaits y q hq fun hy' => hy ((hu y).mpr ⟨hy', hzy⟩)
  · have hnone : s.current = none := Option.map_eq_none_iff.mp hn
    show s.dueQueue.filter _ = []
    rw [hidle hnone]; rfl

/-- A completed zone waits on its timer, and every other zone stands where it stood. -/
theorem cycleHeld_completeFor {s : State} {c : Current} (h : CycleHeld s) (hc : s.current = some c) :
    CycleHeld (endEvaluation (completeFor c s)) := by
  obtain ⟨hnodup, hmem, hunder, hwaits⟩ := h
  have hu := underEvaluation_iff_of_current hc
  have hidle : ∀ t : State, t.current = none → ∀ y, ¬underEvaluation t y := fun t => not_underEvaluation_of_idle
  unfold endEvaluation completeFor
  cases hz : c.zone with
  | none =>
    exact ⟨hnodup, hmem, fun y hy => absurd hy (hidle _ rfl y),
      fun y q hq _ => hwaits y q hq fun hy => nomatch hz.symm.trans ((hu y).mp hy)⟩
  | some z =>
    obtain ⟨r, hr, hmark, -⟩ := hunder z ((hu z).mpr hz)
    dsimp only
    rw [hr]
    have hsame : SameCycle { s.setZone z (some (zoneAfter s c r)) with current := none }
        { completeZone z r c s with current := none } :=
      ⟨(completeZone_sameCycle z r c s).zones, (completeZone_sameCycle z r c s).dueQueue, rfl⟩
    refine CycleHeld.congr ?_ hsame
    have hzone : ∀ y, State.zone { s.setZone z (some (zoneAfter s c r)) with current := none } y
        = if z = y then some (zoneAfter s c r) else s.zone y := fun y => zone_setZone s z y _
    refine ⟨hnodup, fun y => ?_, fun y hy => absurd hy (hidle _ rfl y), fun y q hq _ => ?_⟩
    · rw [hzone]
      split
      next hzy =>
        subst hzy
        refine (hmem z).trans (iff_of_false ?_ ?_)
        · rintro ⟨q, hq, hm⟩
          cases hr.symm.trans hq
          cases hmark.symm.trans hm
        · rintro ⟨q, hq, hm⟩
          cases hq
          cases hmark.symm.trans hm
      next => exact hmem y
    · rw [hzone] at hq
      split at hq
      · cases hq; exact hmark
      next hzy => exact hwaits y q hq fun hy => hzy (Option.some.inj (hz.symm.trans ((hu y).mp hy)))

theorem cycleLaw_of_noZones {s : State} (hz : ∀ z, s.zone z = none) (hq : s.dueQueue = []) (hc : s.current = none) :
    CycleLaw s := by
  have hnone : ∀ z r, s.zone z ≠ some r := fun z r hr => nomatch (hz z).symm.trans hr
  refine (cycleLaw_iff s).mpr ⟨⟨by rw [hq]; exact List.nodup_nil, fun z => ?_,
    fun z hu => absurd hu (not_underEvaluation_of_idle hc z), fun z r hr _ => absurd hr (hnone z r)⟩, fun _ => hq⟩
  rw [hq]
  exact iff_of_false List.not_mem_nil fun ⟨r, hr, _⟩ => hnone z r hr

theorem zone_resetAll (ts : Tables) (rate : LinkRate) (s : State) (z : ZoneId) : (resetAll ts rate s).zone z = none :=
  Vector.getElem_replicate ..

theorem slot_resetAll (ts : Tables) (rate : LinkRate) (s : State) (i : SlotId) : (resetAll ts rate s).slot i = none :=
  Vector.getElem_replicate ..

theorem effect_keeps_cycleLaw (s t : State) (e : Effect s t) (h : CycleLaw s) : CycleLaw t := by
  obtain hsame | ⟨z, d, hz, -, -, rfl⟩ | ⟨z, r, -, rfl⟩ | ⟨z, r, x, hr, hx, rfl⟩ | ⟨c, hc, rfl⟩ | ⟨ts, rate, rfl⟩ := e.cycle_cases
  · exact cycleLaw_congr h hsame
  · exact cycleLaw_defineZone d h hz
  · exact cycleLaw_closeZone z r h
  · exact cycleLaw_expiry h hr hx
  · obtain ⟨u, hu, heq⟩ := completeEvaluation_eq c s
    rw [heq]
    exact cycleLaw_takeHead ((cycleHeld_completeFor ((cycleLaw_iff s).mp h).1 hc).congr hu)
  · exact cycleLaw_of_noZones (zone_resetAll ts rate s) rfl rfl

/-- Settles O55: the five events of the cycle keep its first four clauses, and the taking of the head restores the last. -/
theorem stepKeepsCycleLaw : Obligations.StepKeepsCycleLaw :=
  fun _ _ => step_keeps (fun _ _ h => cycleLaw_congr h ⟨rfl, rfl, rfl⟩) effect_keeps_cycleLaw

end Sys2Proof.Machine
end

section
/-! The definitions that a ZONE-DEFINE spells (R7, R185), the runs that qualification leaves (R34 to R39), and the law of the runs that
every step keeps. -/

namespace Sys2Proof.Machine

/-! ### Numbers and slots in bytes -/

theorem inRange_iff {lo hi v : Nat} : inRange lo hi v = true ↔ lo ≤ v ∧ v ≤ hi := by simp [inRange]

theorem byte_toNat (b : Byte) : byte b.toNat = b := BitVec.ofNat_toNat .. |>.trans (BitVec.setWidth_eq b)

theorem byte_toNat_of_lt {n : Nat} (h : n < 256) : (byte n).toNat = n := by
  rw [toNat_byte, Nat.mod_eq_of_lt h]

theorem eq_byte_iff {b : Byte} {n : Nat} (h : n < 256) : b = byte n ↔ b.toNat = n :=
  ⟨fun e => by rw [e, byte_toNat_of_lt h], fun e => by rw [← e, byte_toNat]⟩

theorem slotOfByte_eq_some {b : Byte} {i : SlotId} : slotOfByte b = some i ↔ b = byte i.val := by
  rw [eq_byte_iff (by omega)]
  unfold slotOfByte
  split
  · rw [Option.some.injEq, Fin.ext_iff]
  · exact iff_of_false nofun (by omega)

theorem slotsOfBytes_eq_some {l : List Byte} {ms : List SlotId} :
    slotsOfBytes l = some ms ↔ l = ms.map fun m => byte m.val := by
  unfold slotsOfBytes
  induction l generalizing ms with
  | nil => cases ms <;> simp
  | cons b l ih =>
    simp only [List.mapM_cons, Option.bind_eq_bind, Option.bind_eq_some_iff, Option.pure_def, Option.some.injEq]
    constructor
    · rintro ⟨m, hm, ms', hms, rfl⟩
      rw [ih.mp hms, slotOfByte_eq_some.mp hm, List.map_cons]
    · intro h
      cases ms with
      | nil => cases h
      | cons m ms =>
        rw [List.map_cons, List.cons.injEq] at h
        exact ⟨m, slotOfByte_eq_some.mpr h.1, ms, ih.mpr h.2, rfl⟩

theorem noRepeats_iff (l : List SlotId) : noRepeats l = true ↔ l.Nodup := by
  induction l with
  | nil => exact iff_of_true rfl List.nodup_nil
  | cons x xs ih => simp [noRepeats, ih]

/-! ### The definitions that ZONE-DEFINE accepts -/

/-- The bytes of a definition's member lists, from the air count on (R185). -/
def ZoneDef.memberBytes (d : ZoneDef) : List Byte :=
  byte d.air.length :: (d.air.map fun m => byte m.val) ++ byte d.surface.length :: (d.surface.map fun m => byte m.val)

theorem parseDefinition_memberBytes {d : ZoneDef} (hv : d.Valid) :
    parseDefinition d.watch d.alert d.hyst d.nin d.nout d.memberBytes = some d := by
  obtain ⟨hw2, hw, ha1, haw, -, hi1, hi, ho1, ho, hair1, hair, hairN, hsur1, hsur, hsurN⟩ := hv
  have hla : (byte d.air.length).toNat = (d.air.map fun m => byte m.val).length := by
    rw [List.length_map, byte_toNat_of_lt (by omega)]
  have hls : (byte d.surface.length).toNat = d.surface.length := byte_toNat_of_lt (by omega)
  unfold parseDefinition ZoneDef.memberBytes
  simp only [List.cons_append, hla, List.drop_left, List.take_left, slotsOfBytes_eq_some.mpr rfl]
  refine (if_pos ?_).trans rfl
  simp only [Bool.and_eq_true, inRange_iff, noRepeats_iff, beq_iff_eq, List.length_map, hls, and_true]
  exact ⟨⟨⟨⟨⟨⟨⟨⟨hw2, hw⟩, ha1, by omega⟩, hi1, hi⟩, ho1, ho⟩, hair1, hair⟩, hsur1, hsur⟩, hairN⟩, hsurN⟩

theorem valid_of_parseDefinition {watch alert hyst nin nout : Nat} {rest : List Byte} {d : ZoneDef} (hh : hyst ≤ 255)
    (h : parseDefinition watch alert hyst nin nout rest = some d) :
    d.Valid ∧ d.watch = watch ∧ d.alert = alert ∧ d.hyst = hyst ∧ d.nin = nin ∧ d.nout = nout ∧ rest = d.memberBytes := by
  unfold parseDefinition at h
  split at h
  next => cases h
  next a rest =>
    split at h
    next => cases h
    next n surfaceBytes hdrop =>
      split at h
      next air surface hair hsurface =>
        split at h
        next hc =>
          cases h
          rw [slotsOfBytes_eq_some] at hair hsurface
          simp only [Bool.and_eq_true, inRange_iff, noRepeats_iff, beq_iff_eq] at hc
          obtain ⟨⟨⟨⟨⟨⟨⟨⟨hw, ha⟩, hi⟩, ho⟩, hac⟩, hsc⟩, hlen⟩, hairN⟩, hsurN⟩ := hc
          have hlt : a.toNat < rest.length := by
            have := congrArg List.length hdrop
            simp only [List.length_drop, List.length_cons] at this
            omega
          have hla : air.length = a.toNat := by
            have := congrArg List.length hair
            simp only [List.length_take, List.length_map] at this
            omega
          have hls : surface.length = n.toNat := by
            rw [← hlen, hsurface, List.length_map]
          refine ⟨⟨hw.1, hw.2, ha.1, by dsimp only; omega, hh, hi.1, hi.2, ho.1, ho.2, by dsimp only; omega, by dsimp only; omega, hairN,
            by dsimp only; omega, by dsimp only; omega, hsurN⟩, rfl, rfl, rfl, rfl, rfl, ?_⟩
          unfold ZoneDef.memberBytes
          dsimp only
          rw [hla, hls, byte_toNat, byte_toNat, ← hair, ← hsurface, ← hdrop, List.cons_append, List.take_append_drop]
        next => cases h
      next => cases h

/-- The definitions that R7 accepts are the valid ones, as their bytes spell them. -/
theorem parseDefinition_eq_some {watch alert hyst nin nout : Nat} {rest : List Byte} {d : ZoneDef} (hh : hyst ≤ 255) :
    parseDefinition watch alert hyst nin nout rest = some d ↔
      d.Valid ∧ d.watch = watch ∧ d.alert = alert ∧ d.hyst = hyst ∧ d.nin = nin ∧ d.nout = nout ∧ rest = d.memberBytes := by
  refine ⟨valid_of_parseDefinition hh, ?_⟩
  rintro ⟨hv, rfl, rfl, rfl, rfl, rfl, rfl⟩
  exact parseDefinition_memberBytes hv

/-! ### What qualification leaves -/

/-- The part of the laws of the runs that qualification writes: counts, floor and ceiling by the state (R35 to R38). -/
def Qualified.Held (d : ZoneDef) (q : Qualified) : Prop :=
  q.riseCount < d.nin ∧ q.fallCount < d.nout ∧ (q.riseCount = 0 ↔ q.floor = none) ∧ (q.fallCount = 0 ↔ q.ceiling = none)
    ∧ match q.state with
      | .blind => q.riseCount = 0 ∧ q.fallCount = 0
      | .level st => (q.riseCount = 0 ∨ q.fallCount = 0)
          ∧ (∀ l, q.floor = some l → st.rank < l.rank) ∧ ∀ l, q.ceiling = some l → l.rank < st.rank

theorem held_settledAt {d : ZoneDef} (hd : d.Valid) (st : ZoneState) : (Qualified.settledAt st).Held d := by
  obtain ⟨-, -, -, -, -, hnin, -, hnout, -⟩ := hd
  refine ⟨hnin, hnout, iff_of_true rfl rfl, iff_of_true rfl rfl, ?_⟩
  cases st with
  | blind => exact ⟨rfl, rfl⟩
  | level st => exact ⟨.inl rfl, nofun, nofun⟩

/-- A run that goes on combines its level with the new one; one that starts takes the new one. -/
theorem carriedLevel_none {combine : Level → Level → Level} {count : Nat} (new : Level) :
    carriedLevel combine count none new = new := by cases count <;> rfl

theorem carriedLevel_some {combine : Level → Level → Level} {count : Nat} (h : count ≠ 0) (l new : Level) :
    carriedLevel combine count (some l) new = combine l new := by
  cases count
  · exact absurd rfl h
  · rfl

theorem carriedLevel_cases (combine : Level → Level → Level) {count : Nat} {old : Option Level} (new : Level)
    (h : count = 0 ↔ old = none) : (old = none → carriedLevel combine count old new = new)
      ∧ ∀ l, old = some l → carriedLevel combine count old new = combine l new :=
  ⟨fun ho => by rw [ho, carriedLevel_none], fun l ho => by
    subst ho
    exact carriedLevel_some (fun hc => nomatch h.mp hc) l new⟩

theorem held_extendRise {d : ZoneDef} {r : Zone} {st raw : Level} (hd : d.Valid) (hr : r.riseCount < d.nin)
    (hf : r.riseCount = 0 ↔ r.floor = none) (hfloor : ∀ l, r.floor = some l → st.rank < l.rank) (hraw : st.rank < raw.rank) :
    (extendRise d r st raw).Held d := by
  have hcarried : st.rank < (carriedLevel Level.lower r.riseCount r.floor raw).rank := by
    obtain ⟨hnone, hsome⟩ := carriedLevel_cases Level.lower raw hf
    cases ho : r.floor with
    | none => rw [← ho, hnone ho]; exact hraw
    | some l =>
      rw [← ho, hsome l ho, Level.lower]
      split
      · exact hfloor l ho
      · exact hraw
  obtain ⟨-, -, -, -, -, -, -, hnout, -⟩ := id hd
  unfold extendRise
  dsimp only
  split
  · exact held_settledAt hd _
  next hne =>
    refine ⟨Nat.lt_of_le_of_ne hr hne, hnout, iff_of_false (Nat.succ_ne_zero _) nofun, iff_of_true rfl rfl, .inr rfl, ?_, nofun⟩
    rintro l ⟨⟩
    exact hcarried

theorem held_extendFall {d : ZoneDef} {r : Zone} {st release : Level} (hd : d.Valid) (hr : r.fallCount < d.nout)
    (hf : r.fallCount = 0 ↔ r.ceiling = none) (hceiling : ∀ l, r.ceiling = some l → l.rank < st.rank) :
    (extendFall d r st release).Held d := by
  obtain ⟨-, -, -, -, -, hnin, -⟩ := id hd
  unfold extendFall
  split
  next hrel =>
    have hcarried : (carriedLevel Level.higher r.fallCount r.ceiling release).rank < st.rank := by
      obtain ⟨hnone, hsome⟩ := carriedLevel_cases Level.higher release hf
      cases ho : r.ceiling with
      | none => rw [← ho, hnone ho]; exact hrel
      | some l =>
        rw [← ho, hsome l ho, Level.higher]
        split
        · exact hrel
        · exact hceiling l ho
    dsimp only
    split
    · exact held_settledAt hd _
    next hne =>
      refine ⟨hnin, Nat.lt_of_le_of_ne hr hne, iff_of_true rfl rfl, iff_of_false (Nat.succ_ne_zero _) nofun, .inl rfl, nofun, ?_⟩
      rintro l ⟨⟩
      exact hcarried
  · exact held_settledAt hd _

theorem held_qualify {r : Zone} (hd : r.defn.Valid) (hr : r.RunsValid) (m : Option Int) : (qualify r.defn r m).Held r.defn := by
  obtain ⟨hrise, hfall, hfloor, hceiling, hstate⟩ := hr
  unfold qualify
  split
  next st m hst =>
    rw [hst] at hstate
    obtain ⟨-, hfl, hce, -⟩ := hstate
    split
    next hraw => exact held_extendRise hd hrise hfloor hfl hraw
    next => exact held_extendFall hd hfall hceiling hce
  next => exact held_settledAt hd _
  next => exact held_settledAt hd _
  next hst =>
    rw [hst] at hstate
    obtain ⟨hr0, hf0, -⟩ := hstate
    exact ⟨hrise, hfall, hfloor, hceiling, hr0, hf0⟩

/-- An outcome with a margin leaves a level state, and BLIND leaves BLIND. -/
theorem qualify_state (d : ZoneDef) (r : Zone) (m : Option Int) : (qualify d r m).state = .blind ↔ m = none := by
  have hset : ∀ l, (Qualified.settledAt (.level l)).state ≠ .blind := fun _ => nofun
  unfold qualify
  split
  · refine iff_of_false ?_ nofun
    split
    · unfold extendRise; dsimp only; split <;> exact nofun
    · unfold extendFall; dsimp only; repeat' split
      all_goals exact nofun
  · exact iff_of_false nofun nofun
  · exact iff_of_true rfl rfl
  · exact iff_of_true rfl rfl

/-! ### The record of a completed zone -/

theorem runsValid_zoneAfter {s : State} {c : Current} {r : Zone} (hd : r.defn.Valid) (hr : r.RunsValid) (hc : c.defn = r.defn) :
    (zoneAfter s c r).RunsValid := by
  obtain ⟨h1, h2, h3, h4, h5⟩ := held_qualify hd hr ((evaluate (s.tables.entriesOf c.bank) c).map fun p => p.1.margin)
  have hstate := qualify_state r.defn r ((evaluate (s.tables.entriesOf c.bank) c).map fun p => p.1.margin)
  unfold Zone.RunsValid zoneAfter
  dsimp only
  rw [hc]
  refine ⟨h1, h2, h3, h4, ?_⟩
  cases ho : evaluate (s.tables.entriesOf c.bank) c with
  | none =>
    rw [ho] at h5 hstate
    rw [Option.map_none] at h5 hstate
    have hb := hstate.mpr rfl
    rw [Option.map_none]
    rw [hb] at h5 ⊢
    refine ⟨h5.1, h5.2, ?_⟩
    obtain ⟨-, -, -, -, hold⟩ := hr
    unfold latestAfter
    split
    next h => cases h
    next l hs hl => rw [hs] at hold; rw [hl] at hold; exact hold.2.2
    next => rfl
  | some p =>
    rw [ho] at h5 hstate
    rw [Option.map_some] at h5 hstate ⊢
    cases hq : (qualify r.defn r (some p.1.margin)).state with
    | blind => cases hstate.mp hq
    | level st =>
      rw [hq] at h5
      obtain ⟨hone, hfl, hce⟩ := h5
      exact ⟨hone, hfl, hce, nofun⟩

/-! ### The law of the runs -/

theorem runsLaw_of_zones {s t : State} (h : RunsLaw s) (hz : t.zones = s.zones)
    (hc : t.current = s.current ∨ t.current = none) : RunsLaw t := by
  obtain ⟨h1, h2⟩ := h
  have hzone : ∀ z, t.zone z = s.zone z := fun z => by unfold State.zone; rw [hz]
  refine ⟨fun z r hr => h1 z r (hzone z ▸ hr), fun c z r hcur hcz hr => ?_⟩
  obtain hc | hc := hc
  · exact h2 c z r (hc ▸ hcur) hcz (hzone z ▸ hr)
  · cases hc.symm.trans hcur

theorem runsLaw_congr {s t : State} (h : RunsLaw s) (k : SameCycle s t) : RunsLaw t :=
  runsLaw_of_zones h k.zones (.inl k.current)

/-- An evaluation that starts works from its zone's definition, and the mark is no part of the runs. -/
theorem runsLaw_takeHead {s : State} (h : RunsLaw s) : RunsLaw (takeHead s) := by
  obtain hc | ⟨c, hc⟩ := Option.eq_none_or_eq_some s.current
  · obtain hq | ⟨z, rest, hq⟩ := dueQueue_cases s.dueQueue
    · rw [takeHead_empty hq]; exact h
    · obtain ⟨h1, h2⟩ := h
      obtain hz | ⟨r, hz⟩ := Option.eq_none_or_eq_some (s.zone z)
      · rw [takeHead_drop hc hq hz]; exact ⟨h1, h2⟩
      · rw [takeHead_take hc hq hz]
        have hzone : ∀ y, State.zone { s.setZone z (some { r with dueMark := false }) with
            dueQueue := rest, current := some (evaluationOf s z r.defn) } y
              = if z = y then some { r with dueMark := false } else s.zone y := fun y => zone_setZone s z y _
        refine ⟨fun y q hq => ?_, fun c y q hc hy hq => ?_⟩
        · rw [hzone] at hq
          split at hq
          · cases hq; exact h1 z r hz
          · exact h1 y q hq
        · cases hc
          cases hy
          rw [hzone, if_pos rfl] at hq
          cases hq
          rfl
  · rw [takeHead_busy hc]; exact h

/-- A zone with valid runs is written; an evaluation that is its own works from its definition. -/
theorem runsLaw_setZone {s : State} {z : ZoneId} {r : Zone} (h : RunsLaw s) (hd : r.defn.Valid) (hr : r.RunsValid)
    (hcur : ∀ c, s.current = some c → c.zone = some z → c.defn = r.defn) : RunsLaw (s.setZone z (some r)) := by
  obtain ⟨h1, h2⟩ := h
  refine ⟨fun y q hq => ?_, fun c y q hc hy hq => ?_⟩
  · rw [zone_setZone] at hq
    split at hq
    · cases hq; exact ⟨hd, hr⟩
    · exact h1 y q hq
  · rw [zone_setZone] at hq
    split at hq
    next hzy => subst hzy; cases hq; exact hcur c hc hy
    next => exact h2 c y q hc hy hq

theorem runsValid_defined {d : ZoneDef} (hd : d.Valid) : (Zone.defined d).RunsValid := by
  obtain ⟨-, -, -, -, -, hnin, -, hnout, -⟩ := hd
  exact ⟨hnin, hnout, iff_of_true rfl rfl, iff_of_true rfl rfl, rfl, rfl, rfl⟩

theorem runsLaw_defineZone {s : State} {z : ZoneId} {d : ZoneDef} (hcycle : CycleLaw s) (h : RunsLaw s)
    (hz : s.zone z = none) (hd : d.Valid) : RunsLaw (defineZone z d s) := by
  obtain ⟨u, hset, hdef⟩ := defineZone_sameCycle z d s
  refine runsLaw_congr (runsLaw_takeHead (s := enqueue z u) ?_) hdef
  refine runsLaw_of_zones (runsLaw_congr (runsLaw_setZone h hd (runsValid_defined hd) fun c hc hcz => ?_) hset) rfl (.inl rfl)
  obtain ⟨r, hr, -⟩ := ((cycleLaw_iff s).mp hcycle).1.under z ⟨c, hc, hcz⟩
  cases hz.symm.trans hr

theorem runsLaw_closeZone {s : State} (z : ZoneId) (r : Zone) (h : RunsLaw s) : RunsLaw (closeZone z r s) := by
  obtain ⟨h1, h2⟩ := h
  refine runsLaw_congr ?_ (closeZone_sameCycle z r s)
  have hzone : ∀ y, (leaveCycle z (s.setZone z none)).zone y = if z = y then none else s.zone y :=
    fun y => zone_setZone s z y _
  refine ⟨fun y q hq => ?_, fun c y q hc hy hq => ?_⟩
  · rw [hzone] at hq
    split at hq
    · cases hq
    · exact h1 y q hq
  · obtain ⟨c', hc', rfl⟩ := Option.map_eq_some_iff.mp hc
    rw [hzone] at hq
    split at hq
    · cases hq
    · unfold Current.closing at hy ⊢
      split
      next hz => rw [if_pos hz] at hy; cases hy
      next hz => rw [if_neg hz] at hy; exact h2 c' y q hc' hy hq

theorem runsLaw_completeFor {s : State} {c : Current} (h : RunsLaw s) (hc : s.current = some c) : RunsLaw (completeFor c s) := by
  obtain ⟨h1, h2⟩ := id h
  unfold completeFor
  split
  next z hz =>
    split
    next r hr =>
      obtain ⟨hd, hruns⟩ := h1 z r hr
      have hvalid : (zoneAfter s c r).RunsValid := runsValid_zoneAfter hd hruns (h2 c z r hc hz hr)
      refine runsLaw_congr (runsLaw_setZone (r := zoneAfter s c r) h hd hvalid fun c' hc' _ => ?_) (completeZone_sameCycle z r c s)
      cases hc.symm.trans hc'
      exact h2 c z r hc hz hr
    next => exact h
  next => exact h

theorem effect_keeps_runsLaw (s t : State) (e : Effect s t) (hcycle : CycleLaw s) (h : RunsLaw s) : RunsLaw t := by
  obtain hsame | ⟨z, d, hz, ⟨w, a, hy, i, o, rest, hh, hp⟩, -, rfl⟩ | ⟨z, r, -, rfl⟩ | ⟨z, r, x, hr, -, rfl⟩ | ⟨c, hc, rfl⟩
    | ⟨ts, rate, rfl⟩ := e.cycle_cases
  · exact runsLaw_congr h hsame
  · exact runsLaw_defineZone hcycle h hz (valid_of_parseDefinition hh hp).1
  · exact runsLaw_closeZone z r h
  · obtain ⟨hd, hruns⟩ := h.1 z r hr
    have hset := runsLaw_setZone (r := { r with expiry := none, dueMark := true }) h hd hruns fun c hc hcz => h.2 c z r hc hcz hr
    exact runsLaw_takeHead (runsLaw_of_zones hset rfl (.inl rfl))
  · obtain ⟨u, hu, heq⟩ := completeEvaluation_eq c s
    rw [heq]
    have hend : RunsLaw (endEvaluation (completeFor c s)) := runsLaw_of_zones (runsLaw_completeFor h hc) rfl (.inr rfl)
    exact runsLaw_takeHead (runsLaw_congr hend hu)
  · exact ⟨fun z r hr => (nomatch (zone_resetAll ts rate s z).symm.trans hr), fun _ _ _ hc => nomatch hc⟩

/-- Settles O56: the law of the cycle, kept along with that of the runs, rules out an evaluation of an IDLE zone. -/
theorem stepKeepsRunsLaw : Obligations.StepKeepsRunsLaw := by
  intro s t hcycle hruns hstep
  refine (step_keeps (P := fun s => CycleLaw s ∧ RunsLaw s) ?_ ?_ ⟨hcycle, hruns⟩ hstep).2
  · exact fun s q h => ⟨cycleLaw_congr h.1 ⟨rfl, rfl, rfl⟩, runsLaw_congr h.2 ⟨rfl, rfl, rfl⟩⟩
  · exact fun s t e h => ⟨effect_keeps_cycleLaw s t e h.1, effect_keeps_runsLaw s t e h.1 h.2⟩

end Sys2Proof.Machine
end

section
/-! What outcomes, misses and recomputation do to every slot at once: a relation between the record before and the record after, shown
once for any relation that their single writes keep. -/

namespace Sys2Proof.Machine

/-! ### A relation between the slots of two states -/

/-- Every slot of `t` stands in relation `Q` to the slot of `s`, and the same slots are VACANT. -/
def SlotsRel (Q : Slot → Slot → Prop) (s t : State) : Prop := ∀ i, Option.Rel Q (s.slot i) (t.slot i)

/-- A relation that the writes of a miss and of a recomputation keep (R86, R134, R148, R150). -/
structure MissKeeps (Q : Slot → Slot → Prop) : Prop where
  refl : ∀ r, Q r r
  trans : ∀ {r q p}, Q r q → Q q p → Q r p
  polled : ∀ r t, Q r { r with lastPoll := t }
  timed : ∀ r pace next due adv, Q r { r with pace := pace, nextDue := next, due := due, advancedAt := adv }
  missed : ∀ r o, Q r (r.missed o)
  lost : ∀ r o, (r.state = .pending ∨ r.state = .live) → Q r (r.missed o).lost

section
variable {Q : Slot → Slot → Prop} {s t u : State}

theorem SlotsRel.of_some (h : SlotsRel Q s t) {i : SlotId} {q : Slot} (hq : t.slot i = some q) :
    ∃ r, s.slot i = some r ∧ Q r q := by
  have hi := h i
  rw [hq] at hi
  cases hr : s.slot i with
  | none => rw [hr] at hi; cases hi
  | some r => rw [hr] at hi; cases hi; exact ⟨r, rfl, ‹_›⟩

theorem SlotsRel.to_some (h : SlotsRel Q s t) {i : SlotId} {r : Slot} (hr : s.slot i = some r) :
    ∃ q, t.slot i = some q ∧ Q r q := by
  have hi := h i
  rw [hr] at hi
  cases hq : t.slot i with
  | none => rw [hq] at hi; cases hi
  | some q => rw [hq] at hi; cases hi; exact ⟨q, rfl, ‹_›⟩

variable (h : MissKeeps Q)
include h

theorem MissKeeps.rel_of_slots (hs : t.slots = s.slots) : SlotsRel Q s t := by
  intro i
  unfold State.slot
  rw [hs]
  cases s.slots.get i with
  | none => exact .none
  | some r => exact .some (h.refl r)

theorem MissKeeps.rel_trans (h1 : SlotsRel Q s t) (h2 : SlotsRel Q t u) : SlotsRel Q s u := by
  intro i
  cases hr : s.slot i with
  | none =>
    cases hp : u.slot i with
    | none => exact .none
    | some p =>
      obtain ⟨q, hq, -⟩ := h2.of_some hp
      obtain ⟨r, hr', -⟩ := h1.of_some hq
      cases hr.symm.trans hr'
  | some r =>
    obtain ⟨q, hq, hrq⟩ := h1.to_some hr
    obtain ⟨p, hp, hqp⟩ := h2.to_some hq
    rw [hp]
    exact .some (h.trans hrq hqp)

theorem MissKeeps.rel_noticesOnly (hn : NoticesOnly s t) : SlotsRel Q s t := h.rel_of_slots hn.slots

theorem MissKeeps.rel_setSlot {i : SlotId} {r q : Slot} (hr : s.slot i = some r) (hq : Q r q) :
    SlotsRel Q s (s.setSlot i (some q)) := by
  intro j
  rw [slot_setSlot]
  split
  next hij => subst hij; rw [hr]; exact .some hq
  next => exact h.rel_of_slots rfl j

theorem MissKeeps.foldl {act : SlotId → State → State} (ha : ∀ i s, SlotsRel Q s (act i s)) (l : List SlotId) (s : State) :
    SlotsRel Q s (l.foldl (fun s i => act i s) s) := by
  induction l generalizing s with
  | nil => exact h.rel_of_slots rfl
  | cons i l ih => exact h.rel_trans (ha i s) (ih (act i s))

theorem MissKeeps.inFreeOrder {act : SlotId → State → State} (ha : ∀ i s, SlotsRel Q s (act i s)) (l : List SlotId)
    (s : State) : SlotsRel Q s (inFreeOrder act l s) := by
  unfold Machine.inFreeOrder
  split
  · exact h.foldl ha l s
  · exact h.rel_trans (h.rel_of_slots rfl) (h.foldl ha _ (countFree s))

theorem MissKeeps.writeLastPoll (i : SlotId) (at' : Time) (s : State) : SlotsRel Q s (writeLastPoll i at' s) := by
  unfold Machine.writeLastPoll
  split
  next r hr => exact h.rel_setSlot hr (h.polled r at')
  next => exact h.rel_of_slots rfl

theorem MissKeeps.advance (i : SlotId) (s : State) : SlotsRel Q s (advance i s) := by
  unfold Machine.advance
  split
  next r hr =>
    split
    · exact h.rel_setSlot hr (h.timed r _ _ _ _)
    · exact h.rel_of_slots rfl
  next => exact h.rel_of_slots rfl

theorem MissKeeps.takeMiss (i : SlotId) (o : ProbeOutcome) (s : State) : SlotsRel Q s (takeMiss i o s) := by
  unfold Machine.takeMiss
  split
  next => exact h.rel_of_slots rfl
  next r hr =>
    split
    next hlost =>
      exact h.rel_trans (h.rel_setSlot hr (h.lost r o hlost.1))
        (h.rel_noticesOnly ((emit_noticesOnly _ _).trans (onset_noticesOnly _ _)))
    next => exact h.rel_setSlot hr (h.missed r o)

theorem MissKeeps.handMiss (i : SlotId) (at' : Time) (o : ProbeOutcome) (s : State) :
    SlotsRel Q s (handOutcome i at' (.miss o) s) :=
  h.rel_trans (h.rel_trans (h.writeLastPoll i at' s) (h.takeMiss i o _)) (h.advance i _)

theorem MissKeeps.missIfFaulted (i : SlotId) (s : State) : SlotsRel Q s (missIfFaulted i s) := by
  unfold Machine.missIfFaulted
  repeat' split
  · exact h.handMiss _ _ _ _
  all_goals exact h.rel_of_slots rfl

theorem MissKeeps.recompute (i : SlotId) (s : State) : SlotsRel Q s (recompute i s) := by
  unfold Machine.recompute
  split
  next => exact h.rel_of_slots rfl
  next r hr =>
    split
    · split
      · exact h.rel_trans (h.rel_setSlot (q := r.pulledEarlier s.timeBase s.params) hr (h.timed r _ _ _ r.advancedAt))
          (h.missIfFaulted i _)
      · split
        · exact h.rel_trans (h.advance i s) (h.missIfFaulted i _)
        · exact h.rel_setSlot hr (h.timed r _ r.nextDue r.due r.advancedAt)
    · exact h.rel_of_slots rfl

theorem MissKeeps.recomputeMembers (ms : List SlotId) (s : State) : SlotsRel Q s (recomputeMembers ms s) :=
  h.rel_trans (h.foldl h.recompute _ s) (h.inFreeOrder h.recompute _ _)

omit h in
theorem takeHead_slots (s : State) : (takeHead s).slots = s.slots := by
  unfold takeHead
  repeat' split
  all_goals rfl

omit h in
theorem swapPending_slots (s : State) : (swapPending s).slots = s.slots := by
  unfold swapPending
  split
  · rfl
  · exact (emit_noticesOnly _ _).slots

omit h in
theorem makePending_slots (k : BankId) (s : State) : (makePending k s).slots = s.slots := by
  unfold makePending
  dsimp only
  split
  · exact swapPending_slots _
  · rfl

theorem MissKeeps.joinDueQueue (z : ZoneId) (s : State) : SlotsRel Q s (joinDueQueue z s) :=
  h.rel_of_slots (takeHead_slots (enqueue z s))

theorem MissKeeps.defineZone (z : ZoneId) (d : ZoneDef) (s : State) : SlotsRel Q s (defineZone z d s) := by
  have hset : SlotsRel Q s (s.setZone z (some (.defined d))) := h.rel_of_slots rfl
  have hfree : SlotsRel Q s (countFree (s.setZone z (some (.defined d)))) := h.rel_of_slots rfl
  unfold Machine.defineZone
  dsimp only
  split
  · split
    · exact h.rel_trans (h.rel_trans hfree (h.recomputeMembers _ _)) (h.joinDueQueue z _)
    · exact h.rel_trans (h.rel_trans hfree (h.joinDueQueue z _)) (h.recomputeMembers _ _)
  · exact h.rel_trans (h.rel_trans hset (h.joinDueQueue z _)) (h.recomputeMembers _ _)

theorem MissKeeps.closeZone (z : ZoneId) (r : Zone) (s : State) : SlotsRel Q s (closeZone z r s) :=
  h.rel_trans (h.rel_of_slots rfl) (h.recomputeMembers r.defn.members (leaveCycle z (s.setZone z none)))

theorem MissKeeps.completeZone (z : ZoneId) (r : Zone) (c : Current) (s : State) : SlotsRel Q s (completeZone z r c s) := by
  have hset : SlotsRel Q s (s.setZone z (some (zoneAfter s c r))) := h.rel_of_slots rfl
  unfold Machine.completeZone
  dsimp only
  refine h.rel_trans ?_ (h.rel_noticesOnly (zoneOnsets_noticesOnly _ _ _))
  repeat' split
  · exact h.rel_trans hset (h.recomputeMembers _ _)
  · exact h.rel_trans (h.rel_trans hset (h.rel_noticesOnly (emit_noticesOnly _ _))) (h.recomputeMembers _ _)
  · exact hset
  · exact h.rel_trans hset (h.rel_noticesOnly (emit_noticesOnly _ _))

theorem MissKeeps.completeFor (c : Current) (s : State) : SlotsRel Q s (completeFor c s) := by
  unfold Machine.completeFor
  repeat' split
  · exact h.completeZone _ _ _ _
  all_goals exact h.rel_of_slots rfl

theorem MissKeeps.completeEvaluation (c : Current) (s : State) : SlotsRel Q s (completeEvaluation c s) := by
  refine h.rel_trans (h.completeFor c s) (h.rel_of_slots ?_)
  unfold Machine.completeEvaluation
  rw [takeHead_slots, swapPending_slots]
  rfl

theorem MissKeeps.endHeat {i : SlotId} {r : Slot} (hr : s.slot i = some r)
    (hq : Q r { r.madePending s.timeBase with heatEnd := none }) : SlotsRel Q s (endHeat i r s) :=
  h.rel_trans (h.rel_trans (h.rel_setSlot hr hq) (h.rel_noticesOnly (emit_noticesOnly _ _))) (h.missIfFaulted i _)

/-- The cut of a transaction and the misses of the due slots: what a line in FAULT does to the slots (R137). -/
theorem MissKeeps.enterFault (l : LineId) (ln : Line) (s : State) : SlotsRel Q s (enterFault l ln s) := by
  have hcut : ∀ st s, SlotsRel Q s (cutTransaction st s) := by
    intro st s
    unfold cutTransaction
    repeat' split
    · exact h.handMiss _ _ _ _
    all_goals exact h.rel_of_slots rfl
  unfold Machine.enterFault
  dsimp only
  refine h.rel_trans (h.rel_trans ?_ (hcut ln.state _)) (h.inFreeOrder (fun i s => h.handMiss i s.timeBase _ s) _ _)
  exact h.rel_of_slots ((emit_noticesOnly _ _).trans (onset_noticesOnly _ _)).slots

end

/-! ### Every report -/

/-- A relation that the writes of every report keep, where a reading comes to a `readable` slot and a heat cycle to a `heatable` one
(R81, R84, R88, R109 to R114). -/
structure ReportKeeps (Q : Slot → Slot → Prop) (readable heatable : Slot → Prop) : Prop extends MissKeeps Q where
  reading : ∀ r rd, readable r → inReadingRange rd.temp = true → (∀ h, rd.rh = some h → h ≤ 10000) → Q r (r.withReading rd)
  heater : ∀ r n a d, r.state = .live → r.kind = .air → (r.run ≤ 15 → n ≤ 15) →
    Q r { r with run := n, armed := a, deferred := d }
  heating : ∀ r t, heatable r → r.state ≠ .held → Q r (r.heatGood.heatingUntil t)
  heldGood : ∀ r, r.state = .held → Q r r.heatGood

section
variable {Q : Slot → Slot → Prop} {readable heatable : Slot → Prop} (h : ReportKeeps Q readable heatable) {s : State} {i : SlotId}
  {r : Slot}
include h

theorem ReportKeeps.heaterSees (hr : s.slot i = some r) (hl : r.state = .live) (hk : r.kind = .air) (humidity : Nat) :
    SlotsRel Q s (heaterSees i humidity s) := by
  have hsat : r.run ≤ 15 → r.saturated.run ≤ 15 := by
    intro hle
    unfold Slot.saturated
    dsimp only
    split <;> omega
  have hset : ∀ n a d, (r.run ≤ 15 → n ≤ 15) → SlotsRel Q s (s.setSlot i (some { r with run := n, armed := a, deferred := d })) :=
    fun n a d hn => h.rel_setSlot hr (h.heater r n a d hl hk hn)
  unfold Machine.heaterSees
  rw [hr]
  dsimp only
  split
  · split
    · have hsame : (s.setSlot i (some r.saturated)).slot i = some r.saturated := slot_setSlot_same _ _ _
      have hfirst := hset r.saturated.run r.armed r.deferred hsat
      have hnext : ∀ a d, Q r.saturated { r.saturated with armed := a, deferred := d } := fun a d =>
        h.heater r.saturated r.saturated.run a d hl hk id
      unfold tryArm
      repeat' split
      · exact h.rel_trans hfirst (h.rel_setSlot hsame (hnext _ _))
      · exact hfirst
      · exact h.rel_trans hfirst (h.rel_trans (h.rel_setSlot hsame (hnext _ _)) (h.rel_noticesOnly (emit_noticesOnly _ _)))
    · exact hset _ r.armed r.deferred hsat
  · exact hset 0 _ false fun _ => Nat.zero_le _

theorem ReportKeeps.acceptReading {rd : Reading} (hr : s.slot i = some r) (hread : readable r)
    (ht : inReadingRange rd.temp = true) (hrh : ∀ h, rd.rh = some h → h ≤ 10000) :
    SlotsRel Q s (acceptReading i r rd s) := by
  have hset : SlotsRel Q s (s.setSlot i (some (r.withReading rd))) := h.rel_setSlot hr (h.reading r rd hread ht hrh)
  have hnote := noteChange_noticesOnly i r.state (r.withReading rd).state (s.setSlot i (some (r.withReading rd)))
  have hfirst := h.rel_trans hset (h.rel_noticesOnly hnote)
  unfold Machine.acceptReading
  dsimp only
  split
  · split
    next hla =>
      refine h.rel_trans hfirst (h.heaterSees (r := r.withReading rd) ?_ hla.1 hla.2 _)
      rw [hnote.slot, slot_setSlot_same]
    next => exact hfirst
  · exact hfirst

omit h in
theorem calibrate_rh_le (s : State) (r : Slot) (code : Nat) (rhCode : Option Nat) :
    ∀ x, (calibrate s r code rhCode).rh = some x → x ≤ 10000 := by
  intro x hx
  unfold calibrate at hx
  dsimp only at hx
  split at hx
  · obtain ⟨c, -, rfl⟩ := Option.map_eq_some_iff.mp hx
    unfold calibrateHumidity
    omega
  · cases hx

theorem ReportKeeps.takeReport (hr : s.slot i = some r) (rep : Report) (hread : ∀ c rh, rep = .goodRead c rh → readable r)
    (hheat : rep = .goodHeat → heatable r) : SlotsRel Q s (takeReport i rep s) := by
  cases rep with
  | miss o => exact h.takeMiss i o s
  | goodRead code rhCode =>
    show SlotsRel Q s (takeGoodRead i code rhCode s)
    unfold takeGoodRead
    rw [hr]
    dsimp only
    split
    next hp =>
      exact h.acceptReading hr (hread _ _ rfl) (Bool.and_eq_true_iff.mp hp).1 (calibrate_rh_le s r code rhCode)
    next => exact h.takeMiss i _ s
  | goodHeat =>
    show SlotsRel Q s (takeGoodHeat i s)
    unfold takeGoodHeat
    rw [hr]
    dsimp only
    split
    next hheld => exact h.rel_setSlot hr (h.heldGood r hheld)
    next hheld =>
      exact h.rel_trans (h.rel_setSlot hr (h.heating r _ (hheat rfl) hheld)) (h.rel_noticesOnly (emit_noticesOnly _ _))

omit h in
theorem handOutcome_vacant (hv : s.slot i = none) (at' : Time) (rep : Report) : handOutcome i at' rep s = s := by
  have hpoll : Machine.writeLastPoll i at' s = s := by unfold Machine.writeLastPoll; rw [hv]
  have hadv : Machine.advance i s = s := by unfold Machine.advance; rw [hv]
  unfold Machine.handOutcome
  rw [hpoll]
  cases rep with
  | miss o => show Machine.advance i (Machine.takeMiss i o s) = s; unfold Machine.takeMiss; rw [hv]; exact hadv
  | goodRead code rhCode => show Machine.advance i (takeGoodRead i code rhCode s) = s; unfold takeGoodRead; rw [hv]; exact hadv
  | goodHeat => show Machine.advance i (takeGoodHeat i s) = s; unfold takeGoodHeat; rw [hv]; exact hadv

theorem ReportKeeps.handOutcome (at' : Time) (rep : Report)
    (hread : ∀ r c rh, s.slot i = some r → rep = .goodRead c rh → readable { r with lastPoll := at' })
    (hheat : ∀ r, s.slot i = some r → rep = .goodHeat → heatable { r with lastPoll := at' }) :
    SlotsRel Q s (handOutcome i at' rep s) := by
  cases hr : s.slot i with
  | none => rw [handOutcome_vacant hr]; exact h.rel_of_slots rfl
  | some r =>
    have hpoll : Machine.writeLastPoll i at' s = s.setSlot i (some { r with lastPoll := at' }) := by
      unfold Machine.writeLastPoll; rw [hr]
    unfold Machine.handOutcome
    rw [hpoll]
    exact h.rel_trans (h.rel_trans (h.rel_setSlot hr (h.polled r at'))
      (h.takeReport (slot_setSlot_same _ _ _) rep (fun c rh => hread r c rh hr) (hheat r hr))) (h.advance i _)

theorem ReportKeeps.complete (l : LineId) (ln : Line) (t : Txn) (phase : Phase) (rep : Report)
    (hread : ∀ r c rh, t.orphan = false → s.slot t.slot = some r → rep = .goodRead c rh → readable { r with lastPoll := t.pollStart })
    (hheat : ∀ r, t.orphan = false → s.slot t.slot = some r → rep = .goodHeat → heatable { r with lastPoll := t.pollStart }) :
    SlotsRel Q s (complete l ln t phase rep s) := by
  unfold Machine.complete
  dsimp only
  split
  · exact h.rel_of_slots rfl
  next ho =>
    have ho := Bool.eq_false_iff.mpr ho
    have hline : ∀ x, SlotsRel Q s (s.setLine l x) := fun _ => h.rel_of_slots rfl
    exact h.rel_trans (hline _) (h.handOutcome _ _ (fun r c rh => hread r c rh ho) (fun r => hheat r ho))

end

end Sys2Proof.Machine
end

section
/-! Membership along a step (R4): the zones' definitions, the kinds of the slots, and how many zones list a slot. -/

namespace Sys2Proof.Machine

/-! ### Definitions and kinds -/

/-- The definition of a zone; none is IDLE. -/
def definitionOf (s : State) (z : ZoneId) : Option ZoneDef := (s.zone z).map Zone.defn

/-- Every enrolled slot of `s` is enrolled in `t` with its kind. -/
def KindsKept (s t : State) : Prop := ∀ i r, s.slot i = some r → ∃ q, t.slot i = some q ∧ q.kind = r.kind

theorem KindsKept.of_rel {s t : State} (h : SlotsRel (fun r q => q.kind = r.kind) s t) : KindsKept s t := fun _ _ hr => h.to_some hr

theorem definitionOf_congr {s t : State} (h : SameCycle s t) : definitionOf t = definitionOf s := by
  funext z; unfold definitionOf; rw [h.zone]

theorem definitionOf_setZone (s : State) (z : ZoneId) (r : Option Zone) (y : ZoneId) :
    definitionOf (s.setZone z r) y = if z = y then r.map Zone.defn else definitionOf s y := by
  unfold definitionOf
  rw [zone_setZone]
  split <;> rfl

theorem definitionOf_setZone_of_defn {s : State} {z : ZoneId} {r q : Zone} (hr : s.zone z = some r) (hq : q.defn = r.defn) :
    definitionOf (s.setZone z (some q)) = definitionOf s := by
  funext y
  rw [definitionOf_setZone]
  split
  next h => subst h; unfold definitionOf; rw [hr]; exact congrArg some hq
  next => rfl

theorem definitionOf_takeHead (s : State) : definitionOf (takeHead s) = definitionOf s := by
  unfold takeHead
  split
  · split
    next hr => exact definitionOf_setZone_of_defn hr rfl
    next => rfl
  · rfl

theorem definitionOf_joinDueQueue (z : ZoneId) (s : State) : definitionOf (joinDueQueue z s) = definitionOf s :=
  definitionOf_takeHead (enqueue z s)

theorem definitionOf_defineZone (z : ZoneId) (d : ZoneDef) (s : State) (y : ZoneId) :
    definitionOf (defineZone z d s) y = if z = y then some d else definitionOf s y := by
  obtain ⟨u, hset, hdef⟩ := defineZone_sameCycle z d s
  rw [definitionOf_congr hdef, definitionOf_joinDueQueue, definitionOf_congr hset, definitionOf_setZone]
  rfl

theorem definitionOf_closeZone (z : ZoneId) (r : Zone) (s : State) (y : ZoneId) :
    definitionOf (closeZone z r s) y = if z = y then none else definitionOf s y := by
  rw [definitionOf_congr (closeZone_sameCycle z r s)]
  exact definitionOf_setZone s z none y

theorem definitionOf_completeEvaluation (c : Current) (s : State) : definitionOf (completeEvaluation c s) = definitionOf s := by
  obtain ⟨u, hu, heq⟩ := completeEvaluation_eq c s
  rw [heq, definitionOf_takeHead, definitionOf_congr hu]
  show definitionOf (completeFor c s) = _
  unfold completeFor
  repeat' split
  next hr => rw [definitionOf_congr (completeZone_sameCycle _ _ c s)]; exact definitionOf_setZone_of_defn hr rfl
  all_goals rfl

/-! ### The zones that list a slot -/

/-- A zone lists a slot in its list of a kind. -/
def lists (s : State) (k : Kind) (m : SlotId) (z : ZoneId) : Bool :=
  match definitionOf s z with
  | some d => (d.membersOf k).contains m
  | none => false

theorem lists_eq_true {s : State} {k : Kind} {m : SlotId} {z : ZoneId} :
    lists s k m z = true ↔ ∃ d, definitionOf s z = some d ∧ m ∈ d.membersOf k := by
  unfold lists
  cases definitionOf s z with
  | none => exact iff_of_false Bool.false_ne_true fun ⟨_, h, _⟩ => nomatch h
  | some d =>
    rw [List.contains_iff_mem]
    exact ⟨fun h => ⟨d, rfl, h⟩, fun ⟨e, he, hm⟩ => Option.some.inj he ▸ hm⟩

theorem zonesListing_eq (s : State) (k : Kind) (m : SlotId) : zonesListing s k m = allZones.countP (lists s k m) := by
  unfold zonesListing
  refine congrArg (List.countP · allZones) (funext fun z => ?_)
  unfold lists definitionOf
  cases s.zone z <;> rfl

theorem allZones_nodup : allZones.Nodup := List.nodup_finRange 24

/-- One more zone can list a slot at most once more. -/
theorem zonesListing_le_succ {s t : State} {k : Kind} {m : SlotId} {z : ZoneId}
    (h : ∀ y, y ≠ z → lists t k m y = true → lists s k m y = true) : zonesListing t k m ≤ zonesListing s k m + 1 := by
  rw [zonesListing_eq, zonesListing_eq]
  have hone : allZones.countP (fun y => y == z) ≤ 1 := List.nodup_iff_count.mp allZones_nodup z
  have hsplit : ∀ l : List ZoneId, l.countP (lists t k m) ≤ l.countP (lists s k m) + l.countP (fun y => y == z) := by
    intro l
    induction l with
    | nil => exact Nat.le_refl 0
    | cons y l ih =>
      have hy := h y
      simp only [List.countP_cons]
      by_cases hz : y = z <;> by_cases ht : lists t k m y = true <;> simp_all <;> omega
  exact Nat.le_trans (hsplit allZones) (Nat.add_le_add_left hone _)

theorem zonesListing_mono {s t : State} {k : Kind} {m : SlotId} (h : ∀ y, lists t k m y = true → lists s k m y = true) :
    zonesListing t k m ≤ zonesListing s k m := by
  rw [zonesListing_eq, zonesListing_eq]
  exact List.countP_mono_left fun y _ => h y

/-! ### The law by definitions and kinds -/

/-- Every member of a definition is enrolled with its list's kind (R4). -/
def MembersEnrolled (s : State) (d : ZoneDef) : Prop := ∀ k, ∀ m ∈ d.membersOf k, ∃ q, s.slot m = some q ∧ q.kind = k

theorem membershipLaw_iff (s : State) :
    MembershipLaw s ↔ (∀ z d, definitionOf s z = some d → MembersEnrolled s d) ∧ ∀ k m, zonesListing s k m ≤ k.zoneLimit := by
  constructor
  · rintro ⟨hmem, hair, hsurface⟩
    refine ⟨fun z d hd => ?_, fun k m => ?_⟩
    · obtain ⟨r, hr, rfl⟩ := Option.map_eq_some_iff.mp hd
      intro k
      cases k with
      | air => exact (hmem z r hr).1
      | surface => exact (hmem z r hr).2
    · cases k with
      | air => exact hair m
      | surface => exact hsurface m
  · rintro ⟨hmem, hlim⟩
    refine ⟨fun z r hr => ?_, hlim .air, hlim .surface⟩
    have hd : definitionOf s z = some r.defn := by unfold definitionOf; rw [hr]; rfl
    exact ⟨hmem z _ hd .air, hmem z _ hd .surface⟩

theorem MembersEnrolled.congr {s t : State} {d : ZoneDef} (h : MembersEnrolled s d) (hk : KindsKept s t) : MembersEnrolled t d := by
  intro k m hm
  obtain ⟨q, hq, rfl⟩ := h k m hm
  exact hk m q hq

/-- Fewer definitions, and the slots kept: the law is kept. -/
theorem membershipLaw_mono {s t : State} (h : MembershipLaw s)
    (hd : ∀ z d, definitionOf t z = some d → definitionOf s z = some d) (hk : KindsKept s t) : MembershipLaw t := by
  obtain ⟨hmem, hlim⟩ := (membershipLaw_iff s).mp h
  refine (membershipLaw_iff t).mpr ⟨fun z d hz => (hmem z d (hd z d hz)).congr hk, fun k m => ?_⟩
  refine Nat.le_trans (zonesListing_mono fun y hy => ?_) (hlim k m)
  obtain ⟨d, hd', hm⟩ := lists_eq_true.mp hy
  exact lists_eq_true.mpr ⟨d, hd y d hd', hm⟩

/-- No member fails the tests of R8: every member is enrolled with its list's kind, and has room for one more zone. -/
theorem memberFailure_eq_none {s : State} {d : ZoneDef} (h : memberFailure s d = none) :
    MembersEnrolled s d ∧ ∀ k, ∀ m ∈ d.membersOf k, zonesListing s k m < k.zoneLimit := by
  have hkind : ∀ {k m}, kindFailure s k m = none → ∃ q, s.slot m = some q ∧ q.kind = k := by
    intro k m hf
    unfold kindFailure at hf
    split at hf
    · cases hf
    next q hq => exact ⟨q, hq, Classical.byContradiction fun hne => by rw [if_neg hne] at hf; cases hf⟩
  have hlimit : ∀ {k m}, limitFailure s k m = none → zonesListing s k m < k.zoneLimit := by
    intro k m hf
    unfold limitFailure at hf
    split at hf
    · cases hf
    next hlt => exact Nat.lt_of_not_le hlt
  unfold memberFailure at h
  simp only [Option.or_eq_none_iff, List.findSome?_eq_none_iff] at h
  obtain ⟨hair, hsurface, hairs, hsurfaces⟩ := h
  constructor
  · intro k m hm
    cases k with
    | air => exact hkind (hair m hm)
    | surface => exact hkind (hsurface m hm)
  · intro k m hm
    cases k with
    | air => exact hlimit (hairs m hm)
    | surface => exact hlimit (hsurfaces m hm)

/-- A definition that passes the tests of R8 joins the others. -/
theorem membershipLaw_define {s t : State} {z : ZoneId} {d : ZoneDef} (h : MembershipLaw s) (hf : memberFailure s d = none)
    (hd : ∀ y, definitionOf t y = if z = y then some d else definitionOf s y) (hk : KindsKept s t) : MembershipLaw t := by
  obtain ⟨hmem, hlim⟩ := (membershipLaw_iff s).mp h
  obtain ⟨henrolled, hroom⟩ := memberFailure_eq_none hf
  refine (membershipLaw_iff t).mpr ⟨fun y e hy => ?_, fun k m => ?_⟩
  · rw [hd] at hy
    split at hy
    · cases hy; exact henrolled.congr hk
    · exact (hmem y e hy).congr hk
  · have hother : ∀ y, y ≠ z → lists t k m y = true → lists s k m y = true := by
      intro y hy ht
      unfold lists at ht ⊢
      rwa [hd, if_neg (Ne.symm hy)] at ht
    by_cases hm : m ∈ d.membersOf k
    · exact Nat.le_trans (zonesListing_le_succ hother) (hroom k m hm)
    · refine Nat.le_trans (zonesListing_mono fun y ht => ?_) (hlim k m)
      by_cases hy : y = z
      · subst hy
        obtain ⟨e, he, hme⟩ := lists_eq_true.mp ht
        rw [hd, if_pos rfl] at he
        cases he
        exact absurd hme hm
      · exact hother y hy ht

/-! ### Kinds along the effects -/

/-- No outcome, miss or recomputation changes the kind of a slot. -/
theorem reportKeeps_kind : ReportKeeps (fun r q => q.kind = r.kind) (fun _ => True) (fun _ => True) where
  refl _ := rfl
  trans h k := k.trans h
  polled _ _ := rfl
  timed _ _ _ _ _ := rfl
  missed _ _ := rfl
  lost _ _ _ := rfl
  reading _ _ _ _ _ := rfl
  heater _ _ _ _ _ _ _ := rfl
  heating _ _ _ _ := rfl
  heldGood _ _ := rfl

theorem kindsKept_of_slots {s t : State} (h : t.slots = s.slots) : KindsKept s t := .of_rel (reportKeeps_kind.rel_of_slots h)

theorem kindsKept_missIfFaulted {s : State} {i : SlotId} {r q : Slot} (hr : s.slot i = some r) (hq : q.kind = r.kind) :
    KindsKept s (missIfFaulted i (s.setSlot i (some q))) :=
  .of_rel (reportKeeps_kind.rel_trans (reportKeeps_kind.rel_setSlot hr hq) (reportKeeps_kind.missIfFaulted i _))

theorem kindsKept_setSlot {s : State} {i : SlotId} {r q : Slot} (hr : s.slot i = some r) (hq : q.kind = r.kind) :
    KindsKept s (s.setSlot i (some q)) := .of_rel (reportKeeps_kind.rel_setSlot hr hq)

theorem kindsKept_complete (l : LineId) (ln : Line) (x : Txn) (p : Phase) (rep : Report) (s : State) :
    KindsKept s (complete l ln x p rep s) :=
  .of_rel (reportKeeps_kind.complete l ln x p rep (fun _ _ _ _ _ _ => trivial) (fun _ _ _ _ => trivial))

/-- What an effect does to the kinds of the slots: they stay, a slot that no zone names is vacated, or all are. -/
theorem Effect.kinds_cases {s t : State} (e : Effect s t) :
    KindsKept s t
      ∨ (∃ i r, zonesNaming s i = [] ∧ t = (s.setLine r ((s.line r).orphaning i)).setSlot i none)
      ∨ ∃ ts rate, t = resetAll ts rate s := by
  have hrel := reportKeeps_kind.toMissKeeps
  cases e with
  | withdraw i r _ _ hz => exact .inr (.inl ⟨i, r.line, hz, rfl⟩)
  | reset => exact .inr (.inr ⟨_, _, rfl⟩)
  | restart => exact .inr (.inr ⟨_, _, rfl⟩)
  | enrol i _ _ _ _ _ _ _ r _ _ hv =>
    refine .inl fun j q hq => ?_
    have hj : i ≠ j := by rintro rfl; cases hv.symm.trans hq
    refine KindsKept.of_rel (hrel.missIfFaulted i (s.setSlot i (some r))) j q ?_
    rw [slot_setSlot_other s _ hj]; exact hq
  | hold _ _ _ hr => exact .inl (kindsKept_setSlot hr rfl)
  | force _ _ _ hr => exact .inl (kindsKept_setSlot hr rfl)
  | release _ _ _ hr => exact .inl (kindsKept_missIfFaulted hr rfl)
  | due _ _ _ hr => exact .inl (kindsKept_missIfFaulted hr rfl)
  | heatEnd _ _ _ hr => exact .inl (.of_rel (hrel.endHeat hr rfl))
  | define z _ _ _ _ _ _ d => exact .inl (.of_rel (hrel.defineZone z d s))
  | close z r => exact .inl (.of_rel (hrel.closeZone z r s))
  | expiry z => exact .inl (kindsKept_of_slots (takeHead_slots (enqueue z _)))
  | completion c => exact .inl (.of_rel (hrel.completeEvaluation c s))
  | commit k => exact .inl (kindsKept_of_slots (makePending_slots k s))
  | select k => exact .inl (kindsKept_of_slots (makePending_slots k s))
  | early => exact .inl (kindsKept_complete _ _ _ _ _ _)
  | whole => exact .inl (kindsKept_complete _ _ _ _ _ _)
  | fault l => exact .inl (.of_rel (hrel.enterFault l _ s))
  | recovery => exact .inl (kindsKept_of_slots (emit_noticesOnly _ _).slots)
  | _ => exact .inl (kindsKept_of_slots rfl)

/-- A slot that no zone names is a member of no definition. -/
theorem not_mem_of_zonesNaming {s : State} {i : SlotId} (h : zonesNaming s i = []) {z : ZoneId} {d : ZoneDef}
    (hd : definitionOf s z = some d) (k : Kind) : i ∉ d.membersOf k := by
  obtain ⟨r, hr, rfl⟩ := Option.map_eq_some_iff.mp hd
  intro hm
  have hmem : i ∈ r.defn.members := by
    cases k with
    | air => exact List.mem_append_left _ hm
    | surface => exact List.mem_append_right _ hm
  have hz := List.filter_eq_nil_iff.mp h z (List.mem_finRange z)
  rw [hr] at hz
  exact hz (List.contains_iff_mem.mpr hmem)

theorem effect_keeps_membershipLaw (s t : State) (e : Effect s t) (h : MembershipLaw s) : MembershipLaw t := by
  obtain hkinds | ⟨i, l, hnone, rfl⟩ | ⟨ts, rate, rfl⟩ := e.kinds_cases
  · obtain hsame | ⟨z, d, -, -, hm, rfl⟩ | ⟨z, r, -, rfl⟩ | ⟨z, r, x, hr, -, rfl⟩ | ⟨c, -, rfl⟩ | ⟨ts, rate, rfl⟩ := e.cycle_cases
    · exact membershipLaw_mono h (fun z d hd => by rwa [definitionOf_congr hsame] at hd) hkinds
    · exact membershipLaw_define h hm (definitionOf_defineZone z d s) hkinds
    · refine membershipLaw_mono h (fun y d hd => ?_) hkinds
      rw [definitionOf_closeZone] at hd
      split at hd
      · cases hd
      · exact hd
    · refine membershipLaw_mono h (fun y d hd => ?_) hkinds
      have hset := definitionOf_setZone_of_defn (q := { r with expiry := none, dueMark := true }) hr rfl
      rwa [definitionOf_joinDueQueue, hset] at hd
    · exact membershipLaw_mono h (fun y d hd => by rwa [definitionOf_completeEvaluation] at hd) hkinds
    · refine membershipLaw_mono h (fun y d hd => ?_) hkinds
      unfold definitionOf at hd
      rw [zone_resetAll] at hd
      cases hd
  · obtain ⟨hmem, hlim⟩ := (membershipLaw_iff s).mp h
    refine (membershipLaw_iff _).mpr ⟨fun z d hd k m hm => ?_, hlim⟩
    have hi : i ≠ m := by rintro rfl; exact not_mem_of_zonesNaming hnone hd k hm
    obtain ⟨q, hq, hk⟩ := hmem z d hd k m hm
    exact ⟨q, by rw [slot_setSlot_other _ _ hi]; exact hq, hk⟩
  · have hnone : ∀ z, definitionOf (resetAll ts rate s) z = none := fun z => by unfold definitionOf; rw [zone_resetAll]; rfl
    refine (membershipLaw_iff _).mpr ⟨fun z d hd => (nomatch (hnone z).symm.trans hd), fun k m => ?_⟩
    rw [zonesListing_eq, List.countP_eq_zero.mpr fun z _ hl => ?_]
    · exact Nat.zero_le _
    · obtain ⟨d, hd, -⟩ := lists_eq_true.mp hl
      exact nomatch (hnone z).symm.trans hd

/-- Settles O59: only a definition adds members, and it passes the tests of R8; only a withdrawal and the resets vacate a slot, and a
withdrawn slot is in no zone. -/
theorem stepKeepsMembershipLaw : Obligations.StepKeepsMembershipLaw :=
  fun _ _ => step_keeps (fun _ _ h => h) effect_keeps_membershipLaw

end Sys2Proof.Machine
end

section
/-! The laws of the slots along a step (R72, R73, R108, R121, R135): what keeps a slot's identity and validity, and what keeps the law
of a transaction in flight. -/

namespace Sys2Proof.Machine

/-! ### A slot's identity and validity -/

/-- The slot keeps its line, address, kind and class, and stays valid. -/
structure SlotKept (r q : Slot) : Prop where
  line : q.line = r.line
  address : q.address = r.address
  kind : q.kind = r.kind
  cls : q.cls = r.cls
  valid : r.Valid → q.Valid

/-- The slot is kept and does not enter HEATING. -/
structure SlotKeptCalm (r q : Slot) : Prop extends SlotKept r q where
  calm : r.state ≠ .heating → q.state ≠ .heating

theorem valid_missed {r : Slot} (o : ProbeOutcome) (h : r.Valid) : (r.missed o).Valid := by
  obtain ⟨ha, hb, hc, hd, he, hf, hmiss, hrest⟩ := h
  refine ⟨ha, hb, hc, hd, he, hf, ?_, hrest⟩
  unfold Slot.missed
  dsimp only
  split <;> omega

theorem valid_lost {r : Slot} (hs : r.state = .pending ∨ r.state = .live) (h : r.Valid) : r.lost.Valid := by
  obtain ⟨ha, hb, hc, hd, he, hf, hmiss, -, hrd, -, -, hend, -, -, hsurface⟩ := h
  have hcold : r.state ≠ .heating := by obtain hs | hs := hs <;> rw [hs] <;> nofun
  refine ⟨ha, hb, hc, hd, he, hf, hmiss, Nat.zero_le 15, hrd, nofun, nofun, ?_, ?_, fun _ => rfl, fun hk => ?_⟩
  · exact iff_of_false (fun hne => hcold (hend.mp hne)) nofun
  · rintro (hrun | hdef | harm)
    · exact absurd rfl hrun
    · cases hdef
    · cases harm
  · exact ⟨(hsurface hk).1, rfl, rfl, rfl, nofun⟩

theorem afterReading_ne_heating {p : ProbeState} (h : p ≠ .heating) : p.afterReading ≠ .heating := by
  cases p with
  | heating => exact absurd rfl h
  | pending | live | lost | held => exact nofun

theorem held_of_afterReading {p : ProbeState} (h : p.afterReading = .held) : p = .held := by
  cases p with
  | held => rfl
  | pending | live | lost | heating => cases h

theorem valid_withReading {r : Slot} {rd : Reading} (hcold : r.state ≠ .heating) (ht : inReadingRange rd.temp = true)
    (hrh : ∀ x, rd.rh = some x → x ≤ 10000) (h : r.Valid) : (r.withReading rd).Valid := by
  obtain ⟨ha, hb, hc, hd, he, hf, -, hrun, -, -, -, hend, hlive, harm, hsurface⟩ := h
  have hstate : (r.withReading rd).state = r.state.afterReading := rfl
  have hafter : r.state.afterReading ≠ .heating := afterReading_ne_heating hcold
  have hheld : r.state.afterReading = .held → r.state = .held := held_of_afterReading
  have hlive' : r.state = .live → r.state.afterReading = .live := by rintro h; rw [h]; rfl
  have hrange : -4000 ≤ rd.temp ∧ rd.temp ≤ 8499 := by simpa [inReadingRange] using ht
  refine ⟨ha, hb, hc, hd, he, hf, Nat.zero_le 15, hrun, ?_, nofun, fun hs => absurd hs hafter, ?_, fun hx => hlive' (hlive hx), ?_, fun hk => ?_⟩
  · intro x hx; cases hx; exact ⟨hrange.1, hrange.2, hrh⟩
  · exact iff_of_false (fun hne => hcold (hend.mp hne)) hafter
  · rintro (hs | hs)
    · exact harm (.inl (hheld hs))
    · exact absurd hs hafter
  · obtain ⟨h1, h2, h3, h4, -⟩ := hsurface hk
    exact ⟨h1, h2, h3, h4, hafter⟩

theorem valid_heater {r : Slot} {n : Nat} (a : Option Origin) (d : Bool) (hl : r.state = .live) (hk : r.kind = .air)
    (hn : r.run ≤ 15 → n ≤ 15) (h : r.Valid) : Slot.Valid { r with run := n, armed := a, deferred := d } := by
  obtain ⟨ha, hb, hc, hd, he, hf, hmiss, hrun, hrd, hlive, hheat, hend, -, -, -⟩ := h
  refine ⟨ha, hb, hc, hd, he, hf, hmiss, hn hrun, hrd, hlive, hheat, hend, fun _ => hl, ?_, fun hs => ?_⟩
  · rintro (hs | hs) <;> exact nomatch hl.symm.trans hs
  · exact nomatch hk.symm.trans hs

theorem valid_heatGood_held {r : Slot} (hs : r.state = .held) (h : r.Valid) : r.heatGood.Valid := by
  obtain ⟨ha, hb, hc, hd, he, hf, -, hrun, -, -, -, hend, hheater, harm, hsurface⟩ := h
  refine ⟨ha, hb, hc, hd, he, hf, Nat.zero_le 15, hrun, nofun, fun hl => ?_, fun _ => rfl, hend, hheater, harm, hsurface⟩
  exact nomatch hs.symm.trans hl

theorem valid_heating {r : Slot} (t : Time) (hk : r.kind = .air) (h : r.Valid) : (r.heatGood.heatingUntil t).Valid := by
  obtain ⟨ha, hb, hc, hd, he, hf, -⟩ := h
  refine ⟨ha, hb, hc, hd, he, hf, Nat.zero_le 15, Nat.zero_le 15, nofun, nofun, fun _ => rfl, iff_of_true nofun rfl, ?_, fun _ => rfl,
    fun hs => nomatch hk.symm.trans hs⟩
  rintro (hrun | hdef | harm)
  · exact absurd rfl hrun
  · cases hdef
  · cases harm

theorem valid_held {r : Slot} (hcold : r.state ≠ .heating) (h : r.Valid) : Slot.Valid { r.clearHeater with state := .held } := by
  obtain ⟨ha, hb, hc, hd, he, hf, hmiss, -, hrd, -, -, hend, -, -, hsurface⟩ := h
  refine ⟨ha, hb, hc, hd, he, hf, hmiss, Nat.zero_le 15, hrd, nofun, nofun, ?_, ?_, fun _ => rfl, fun hk => ⟨(hsurface hk).1, rfl, rfl, rfl, nofun⟩⟩
  · exact iff_of_false (fun hne => hcold (hend.mp hne)) nofun
  · rintro (hrun | hdef | harm)
    · exact absurd rfl hrun
    · cases hdef
    · cases harm

/-- A slot that was HELD or HEATING has no heater field set, so as a PENDING one it is valid again. -/
theorem valid_madePending {r : Slot} (now : Time) {m : Nat} (hs : r.state = .held ∨ r.state = .heating) (hm : m ≤ 15) (h : r.Valid) :
    Slot.Valid { r.madePending now with misses := m, heatEnd := none } := by
  obtain ⟨ha, hb, hc, hd, he, hf, -, hrun, hrd, -, -, -, hheater, -, hsurface⟩ := h
  refine ⟨ha, hb, hc, hd, he, hf, hm, hrun, hrd, nofun, nofun, iff_of_false (fun hne => hne rfl) nofun, fun hx => ?_, ?_, fun hk => ?_⟩
  · obtain hs | hs := hs <;> exact nomatch hs.symm.trans (hheater hx)
  · rintro (hx | hx) <;> cases hx
  · obtain ⟨h1, h2, h3, h4, -⟩ := hsurface hk
    exact ⟨h1, h2, h3, h4, nofun⟩

theorem valid_forced {r : Slot} (hk : r.kind ≠ .surface) (hs : ¬(r.state = .heating ∨ r.state = .held)) (h : r.Valid) :
    Slot.Valid { r with armed := some .forced } := by
  obtain ⟨ha, hb, hc, hd, he, hf, hmiss, hrun, hrd, hlive, hheat, hend, hheater, -, -⟩ := h
  refine ⟨ha, hb, hc, hd, he, hf, hmiss, hrun, hrd, hlive, hheat, hend, ?_, fun hx => absurd hx.symm hs, fun hx => absurd hx hk⟩
  rintro (hx | hx | hx)
  · exact hheater (.inl hx)
  · exact hheater (.inr (.inl hx))
  · cases hx

theorem valid_of_parseEnrolment {now : Time} {line address kind cls rule : Byte} {tOff rhOff : Int} {r : Slot}
    (h : parseEnrolment now line address kind cls rule tOff rhOff = some r) : r.Valid := by
  unfold parseEnrolment at h
  split at h
  · split at h
    next hr =>
      cases h
      simp only [Bool.and_eq_true, Bool.or_eq_true, decide_eq_true_eq, beq_iff_eq, inRange_iff] at hr
      obtain ⟨⟨⟨ha, hb⟩, ⟨ht1, ht2⟩⟩, hrh⟩ := hr
      have hoff : ∀ k : Kind, (k = .surface ∨ -1000 ≤ rhOff ∧ rhOff ≤ 1000) →
          -1000 ≤ (if k = .air then rhOff else 0) ∧ (if k = .air then rhOff else 0) ≤ 1000 := by
        rintro k (rfl | ⟨h1, h2⟩)
        · simp
        · split <;> omega
      refine ⟨ha, hb, ht1, ht2, (hoff _ hrh).1, (hoff _ hrh).2, Nat.zero_le 15, Nat.zero_le 15, nofun, nofun, nofun,
        iff_of_false (fun hne => hne rfl) nofun, ?_, ?_, fun hk => ⟨?_, rfl, rfl, rfl, nofun⟩⟩
      · rintro (hx | hx | hx)
        · exact absurd rfl hx
        · cases hx
        · cases hx
      · rintro (hx | hx) <;> cases hx
      · dsimp only at hk ⊢
        rw [hk]; rfl
    · cases h
  · cases h

/-- Every report keeps the slots: a reading one that is not HEATING, a heat cycle one of kind AIR. -/
theorem reportKeeps_slotKept : ReportKeeps SlotKept (fun r => r.state ≠ .heating) (fun r => r.kind = .air) where
  refl _ := ⟨rfl, rfl, rfl, rfl, id⟩
  trans h k := ⟨k.line.trans h.line, k.address.trans h.address, k.kind.trans h.kind, k.cls.trans h.cls, fun v => k.valid (h.valid v)⟩
  polled _ _ := ⟨rfl, rfl, rfl, rfl, id⟩
  timed _ _ _ _ _ := ⟨rfl, rfl, rfl, rfl, id⟩
  missed _ o := ⟨rfl, rfl, rfl, rfl, valid_missed o⟩
  lost _ o hs := ⟨rfl, rfl, rfl, rfl, fun v => valid_lost hs (valid_missed o v)⟩
  reading _ _ hread ht hrh := ⟨rfl, rfl, rfl, rfl, valid_withReading hread ht hrh⟩
  heater _ _ a d hl hk hn := ⟨rfl, rfl, rfl, rfl, valid_heater a d hl hk hn⟩
  heating _ t hk _ := ⟨rfl, rfl, rfl, rfl, valid_heating t hk⟩
  heldGood _ hs := ⟨rfl, rfl, rfl, rfl, valid_heatGood_held hs⟩

/-- Every report but a good heat reply leaves a slot out of HEATING that was out of it. -/
theorem reportKeeps_slotKeptCalm : ReportKeeps SlotKeptCalm (fun r => r.state ≠ .heating) (fun _ => False) where
  refl r := ⟨reportKeeps_slotKept.refl r, id⟩
  trans h k := ⟨reportKeeps_slotKept.trans h.toSlotKept k.toSlotKept, fun hr => k.calm (h.calm hr)⟩
  polled r t := ⟨reportKeeps_slotKept.polled r t, id⟩
  timed r p n d a := ⟨reportKeeps_slotKept.timed r p n d a, id⟩
  missed r o := ⟨reportKeeps_slotKept.missed r o, id⟩
  lost r o hs := ⟨reportKeeps_slotKept.lost r o hs, fun _ => nofun⟩
  reading r rd hread ht hrh := by
    refine ⟨reportKeeps_slotKept.reading r rd hread ht hrh, fun _ => ?_⟩
    exact afterReading_ne_heating hread
  heater r n a d hl hk hn := ⟨reportKeeps_slotKept.heater r n a d hl hk hn, id⟩
  heating _ _ hf := hf.elim
  heldGood r hs := ⟨reportKeeps_slotKept.heldGood r hs, id⟩

end Sys2Proof.Machine
end

section
/-! The law of the probe table along a step: the transactions in flight belong to their slots, and no two slots share a line and
address (R73, R79, R135). -/

namespace Sys2Proof.Machine

/-! ### Transactions -/

/-- Nothing that `t` says of its slot is more than what `u` says: it is in flight and not orphaned only if `u` is. -/
structure Txn.Follows (u t : Txn) : Prop where
  slot : t.slot = u.slot
  address : t.address = u.address
  cls : t.cls = u.cls
  command : t.command = u.command
  expected : t.expected = u.expected
  inFlight : t.inFlight = true → u.inFlight = true
  orphan : t.orphan = false → u.orphan = false

theorem TxnLaw.follow {s : State} {l : LineId} {u t : Txn} (h : TxnLaw s l u) (f : u.Follows t) : TxnLaw s l t := by
  intro hf ho
  rw [f.slot, f.address, f.cls, f.command, f.expected]
  exact h (f.inFlight hf) (f.orphan ho)

theorem TxnLaw.congr {s t : State} {l : LineId} {x : Txn} (h : TxnLaw s l x)
    (hs : ∀ r, s.slot x.slot = some r → r.line = l → ∃ q, t.slot x.slot = some q ∧ SlotKeptCalm r q) : TxnLaw t l x := by
  intro hf ho
  obtain ⟨r, hr, hline, haddress, hcls, hcold, hlen, hair⟩ := h hf ho
  obtain ⟨q, hq, hk⟩ := hs r hr hline
  exact ⟨q, hq, hk.line.trans hline, hk.address.trans haddress, hk.cls.trans hcls, hk.calm hcold, by rw [hk.kind, hk.cls]; exact hlen,
    fun hc => hk.kind.trans (hair hc)⟩

theorem txnLaw_of_completed {s : State} {l : LineId} {t : Txn} (h : t.inFlight = false) : TxnLaw s l t :=
  fun hf => nomatch h.symm.trans hf

theorem inFlight_iff (t : Txn) : t.inFlight = true ↔ t.phase = .sending ∨ t.phase = .awaiting ∨ t.phase = .receiving := by
  unfold Txn.inFlight
  simp [or_assoc]

theorem inFlight_of_completed {t : Txn} (h : t.phase = .discarding ∨ t.phase = .turnaround) : t.inFlight = false := by
  unfold Txn.inFlight
  obtain h | h := h <;> rw [h] <;> rfl

/-! ### The law of the table from the slots and the transactions -/

theorem slotsLaw_of_rel {s t : State} (h : SlotsLaw s) (hk : SlotsRel SlotKept s t)
    (ht : ∀ l x, (t.line l).state = .busy x → TxnLaw t l x) : SlotsLaw t := by
  obtain ⟨hvalid, hone, -⟩ := h
  refine ⟨fun i q hq => ?_, fun i j p q hp hq hline haddress => ?_, ht⟩
  · obtain ⟨r, hr, hrq⟩ := hk.of_some hq
    exact hrq.valid (hvalid i r hr)
  · obtain ⟨r, hr, hrp⟩ := hk.of_some hp
    obtain ⟨r', hr', hrq⟩ := hk.of_some hq
    exact hone i j r r' hr hr' (by rw [← hrp.line, hline, hrq.line]) (by rw [← hrp.address, haddress, hrq.address])

theorem SlotsRel.mono {Q Q' : Slot → Slot → Prop} (h : ∀ r q, Q r q → Q' r q) {s t : State} (hr : SlotsRel Q s t) : SlotsRel Q' s t :=
  fun i => match s.slot i, t.slot i, hr i with
    | _, _, .none => .none
    | _, _, .some hq => .some (h _ _ hq)

/-- Slots kept calmly, and transactions that follow those of `s`: the law is kept. -/
theorem slotsLaw_calm {s t : State} (h : SlotsLaw s) (hk : SlotsRel SlotKeptCalm s t)
    (hf : ∀ l x, (t.line l).state = .busy x → TxnLaw s l x) : SlotsLaw t :=
  slotsLaw_of_rel h (hk.mono fun _ _ k => k.toSlotKept) fun l x hx => (hf l x hx).congr fun _ hr _ => hk.to_some hr

theorem slotsLaw_calm_sameLines {s t : State} (h : SlotsLaw s) (hk : SlotsRel SlotKeptCalm s t) (hl : t.lines = s.lines) : SlotsLaw t := by
  obtain ⟨-, -, htxn⟩ := id h
  refine slotsLaw_calm h hk fun l x hx => htxn l x ?_
  unfold State.line at hx ⊢
  rwa [hl] at hx

theorem txnLaw_setLine {s : State} (h : SlotsLaw s) {l : LineId} {ln : Line} (hl : ∀ x, ln.state = .busy x → TxnLaw s l x) :
    ∀ k x, ((s.setLine l ln).line k).state = .busy x → TxnLaw s k x := by
  obtain ⟨-, -, htxn⟩ := h
  intro k x hx
  rw [line_setLine] at hx
  split at hx
  next hlk => subst hlk; exact hl x hx
  next => exact htxn k x hx

theorem calm_of_slots {s t : State} (h : t.slots = s.slots) : SlotsRel SlotKeptCalm s t := reportKeeps_slotKeptCalm.rel_of_slots h

theorem slotsLaw_setLine {s : State} (h : SlotsLaw s) {l : LineId} {ln : Line} (hl : ∀ x, ln.state = .busy x → TxnLaw s l x) :
    SlotsLaw (s.setLine l ln) := slotsLaw_calm h (calm_of_slots rfl) (txnLaw_setLine h hl)

/-- A line that has no transaction any more. -/
theorem slotsLaw_setLine_quiet {s : State} (h : SlotsLaw s) {l : LineId} {ln : Line} (hl : ∀ x, ln.state ≠ .busy x) :
    SlotsLaw (s.setLine l ln) := slotsLaw_setLine h fun x hx => absurd hx (hl x)

/-- A line goes on with a transaction that follows the one it had. -/
theorem slotsLaw_setLine_follow {s : State} (h : SlotsLaw s) {l : LineId} {ln : Line} {u t : Txn} (hu : (s.line l).state = .busy u)
    (ht : ln.state = .busy t) (hf : u.Follows t) : SlotsLaw (s.setLine l ln) := by
  obtain ⟨-, -, htxn⟩ := id h
  refine slotsLaw_setLine h fun x hx => ?_
  cases ht.symm.trans hx
  exact (htxn l u hu).follow hf

/-! ### Single slots -/

theorem slotsLaw_setSlot_calm {s : State} (h : SlotsLaw s) {i : SlotId} {r q : Slot} (hr : s.slot i = some r) (hq : SlotKeptCalm r q) :
    SlotsLaw (s.setSlot i (some q)) := slotsLaw_calm_sameLines h (reportKeeps_slotKeptCalm.rel_setSlot hr hq) rfl

theorem slotsLaw_missIfFaulted {s : State} (h : SlotsLaw s) (i : SlotId) : SlotsLaw (missIfFaulted i s) :=
  slotsLaw_calm_sameLines h (reportKeeps_slotKeptCalm.missIfFaulted i s) (missIfFaulted_probesOnly i s).lines

/-- A slot is enrolled at a line and address that no slot has (R73, R76). -/
theorem slotsLaw_enrol {s : State} (h : SlotsLaw s) {i : SlotId} {r : Slot} (hv : s.slot i = none) (hvalid : r.Valid)
    (hd : slotAt s r.line r.address = none) : SlotsLaw (s.setSlot i (some r)) := by
  obtain ⟨hvalids, hone, htxn⟩ := h
  have hfree : ∀ j q, s.slot j = some q → q.line = r.line → q.address ≠ r.address := by
    intro j q hq hl ha
    have hj := List.find?_eq_none.mp hd j (List.mem_finRange j)
    rw [hq] at hj
    dsimp only at hj
    rw [hl, ha, beq_self_eq_true, beq_self_eq_true] at hj
    exact hj rfl
  have hsome : ∀ j q, (s.setSlot i (some r)).slot j = some q → i = j ∧ r = q ∨ i ≠ j ∧ s.slot j = some q := by
    intro j q hq
    rw [slot_setSlot] at hq
    split at hq
    next hij => exact .inl ⟨hij, Option.some.inj hq⟩
    next hij => exact .inr ⟨hij, hq⟩
  refine ⟨fun j q hq => ?_, fun j k p q hp hq hl ha => ?_, fun l x hx hf ho => ?_⟩
  · obtain ⟨-, rfl⟩ | ⟨-, hq⟩ := hsome j q hq
    · exact hvalid
    · exact hvalids j q hq
  · obtain ⟨rfl, rfl⟩ | ⟨-, hp⟩ := hsome j p hp <;> obtain ⟨rfl, rfl⟩ | ⟨-, hq⟩ := hsome k q hq
    · rfl
    · exact absurd ha.symm (hfree k q hq hl.symm)
    · exact absurd ha (hfree j p hp hl)
    · exact hone j k p q hp hq hl ha
  · obtain ⟨q, hq, hrest⟩ := htxn l x hx hf ho
    have hi : i ≠ x.slot := by rintro rfl; exact nomatch hv.symm.trans hq
    exact ⟨q, by rw [slot_setSlot_other _ _ hi]; exact hq, hrest⟩

/-- A transaction still in flight for the withdrawn slot is orphaned. -/
theorem orphaning_state {i : SlotId} {l : Line} {x : Txn} (h : (l.orphaning i).state = .busy x) :
    ∃ u, l.state = .busy u ∧ u.Follows x ∧ (x.inFlight = true → x.orphan = false → u.slot ≠ i) := by
  unfold Line.orphaning at h
  split at h
  next u hu =>
    refine ⟨u, hu, ?_⟩
    split at h
    · cases h
      exact ⟨⟨rfl, rfl, rfl, rfl, rfl, id, nofun⟩, nofun⟩
    next hne =>
      cases hu.symm.trans h
      exact ⟨⟨rfl, rfl, rfl, rfl, rfl, id, id⟩, fun hf _ hs => hne ⟨hs, hf⟩⟩
  next hu => exact absurd h (hu x)

theorem slotsLaw_withdraw {s : State} (h : SlotsLaw s) {i : SlotId} {r : Slot} (hr : s.slot i = some r) :
    SlotsLaw ((s.setLine r.line ((s.line r.line).orphaning i)).setSlot i none) := by
  obtain ⟨hvalids, hone, htxn⟩ := h
  have hsome : ∀ j q, ((s.setLine r.line ((s.line r.line).orphaning i)).setSlot i none).slot j = some q → s.slot j = some q := by
    intro j q hq
    rw [slot_setSlot] at hq
    split at hq
    · cases hq
    · exact hq
  refine ⟨fun j q hq => hvalids j q (hsome j q hq), fun j k p q hp hq => hone j k p q (hsome j p hp) (hsome k q hq), ?_⟩
  intro l x hx hf ho
  have hother : ∀ {u : Txn}, u.Follows x → (s.line l).state = .busy u → u.slot ≠ i →
      ∃ q, ((s.setLine r.line ((s.line r.line).orphaning i)).setSlot i none).slot x.slot = some q ∧ q.line = l
        ∧ q.address = x.address ∧ q.cls = x.cls ∧ q.state ≠ .heating ∧ x.expected = payloadLength x.command q.kind q.cls
        ∧ (x.command ≠ .read → q.kind = .air) := by
    intro u hu hl hi
    obtain ⟨q, hq, hrest⟩ := (htxn l u hl).follow hu hf ho
    refine ⟨q, ?_, hrest⟩
    rw [slot_setSlot_other _ _ (fun he => hi (by rw [← hu.slot, he]))]
    exact hq
  rw [setSlot_line, line_setLine] at hx
  split at hx
  next hl =>
    subst hl
    obtain ⟨u, hu, hfollow, hne⟩ := orphaning_state hx
    exact hother hfollow hu (hne hf ho)
  next hl =>
    refine hother ⟨rfl, rfl, rfl, rfl, rfl, id, id⟩ hx ?_
    rintro rfl
    obtain ⟨q, hq, hline, -⟩ := htxn l x hx hf ho
    cases hr.symm.trans hq
    exact hl hline

/-! ### Polls and replies -/

theorem dueOn_iff {s : State} {l : LineId} {i : SlotId} :
    dueOn s l i = true ↔ ∃ r, s.slot i = some r ∧ r.line = l ∧ r.schedulable = true ∧ r.due = true := by
  unfold dueOn
  cases s.slot i with
  | none => exact iff_of_false Bool.false_ne_true fun ⟨_, h, _⟩ => nomatch h
  | some r =>
    simp only [Bool.and_eq_true, beq_iff_eq, Option.some.injEq, exists_eq_left', and_assoc]

/-- The poll of the chosen slot is a transaction of its line, in flight for a slot that is not HEATING. -/
theorem txnLaw_startTxn {s : State} (h : SlotsLaw s) {l : LineId} {i : SlotId} {r : Slot} (hc : chosenSlot s l = some i)
    (hr : s.slot i = some r) : TxnLaw s l (startTxn s i r) := by
  obtain ⟨hvalids, -⟩ := h
  obtain ⟨q, hq, hline, hsched, -⟩ := dueOn_iff.mp (List.find?_some hc)
  cases hr.symm.trans hq
  refine fun _ _ => ⟨r, hr, hline, rfl, rfl, ((schedulable_iff r).mp hsched).1, rfl, fun hcmd => ?_⟩
  obtain ⟨-, -, -, -, -, -, -, -, -, -, -, -, -, -, hsurface⟩ := hvalids i r hr
  cases hk : r.kind with
  | air => rfl
  | surface =>
    refine absurd ?_ hcmd
    show pollCommand s r = .read
    unfold pollCommand
    rw [(hsurface hk).2.2.1]
    rfl

/-- A GOOD heat reply is one to a heat command. -/
theorem command_of_goodHeat {t : Txn} {mark : Bool} {value : Byte} (h : judgeCharacter t mark value = .whole .goodHeat) :
    t.command ≠ .read := by
  intro hread
  unfold judgeCharacter judgeReply at h
  rw [hread] at h
  dsimp only at h
  repeat' split at h
  all_goals cases h

theorem onlySlot_of_noticesOnly {s t : State} (i : SlotId) (h : NoticesOnly s t) : OnlySlot i s t := fun j _ => h.slot j

theorem onlySlot_setSlot (s : State) (i : SlotId) (r : Option Slot) : OnlySlot i s (s.setSlot i r) :=
  fun _ hj => slot_setSlot_other s r (Ne.symm hj)

theorem onlySlot_takeGoodHeat (i : SlotId) (s : State) : OnlySlot i s (takeGoodHeat i s) := by
  unfold takeGoodHeat
  repeat' split
  · exact fun _ _ => rfl
  · exact onlySlot_setSlot _ _ _
  · exact (onlySlot_setSlot _ _ _).trans (onlySlot_of_noticesOnly i (emit_noticesOnly _ _))

theorem onlySlot_handGoodHeat (i : SlotId) (at' : Time) (s : State) : OnlySlot i s (handOutcome i at' .goodHeat s) :=
  ((onlySlot_writeLastPoll i at' s).trans (onlySlot_takeGoodHeat i _)).trans (onlySlot_advance i _)

/-- A transaction that has completed on a line. -/
theorem slotsLaw_completed {s : State} (h : SlotsLaw s) {l : LineId} {ln : Line} {t : Txn} {p : Phase} (hp : p = .discarding ∨ p = .turnaround) :
    SlotsLaw (s.setLine l { ln with state := .busy { t with phase := p, framingWait := false } }) :=
  slotsLaw_setLine h fun x hx => by cases hx; exact txnLaw_of_completed (inFlight_of_completed hp)

/-- A completion that is no good heat reply keeps the slots calmly. -/
theorem slotsLaw_complete_calm {s : State} (h : SlotsLaw s) {l : LineId} {ln : Line} {t : Txn} {p : Phase} {rep : Report}
    (hb : (s.line l).state = .busy t) (hp : p = .discarding ∨ p = .turnaround) (hf : t.inFlight = true) (hrep : rep ≠ .goodHeat) :
    SlotsLaw (complete l ln t p rep s) := by
  obtain ⟨-, -, htxn⟩ := id h
  have hset := slotsLaw_completed (l := l) (ln := ln) (t := t) h hp
  unfold complete
  dsimp only
  split
  · exact hset
  next ho =>
    refine slotsLaw_calm_sameLines hset ?_ (handOutcome_probesOnly _ _ _ _).lines
    refine reportKeeps_slotKeptCalm.handOutcome _ _ (fun r c rh hr _ => ?_) fun _ _ hg => hrep hg
    obtain ⟨q, hq, -, -, -, hcold, -⟩ := htxn l t hb hf (Bool.eq_false_iff.mpr ho)
    cases hr.symm.trans hq
    exact hcold

/-- A good heat reply takes an AIR slot to HEATING, for which no transaction is in flight; those of the other lines are for other
slots. -/
theorem slotsLaw_handGoodHeat {s : State} (h : SlotsLaw s) {i : SlotId} {r : Slot} (at' : Time) (hr : s.slot i = some r)
    (hk : r.kind = .air) (hdone : ∀ x, (s.line r.line).state = .busy x → x.inFlight = false) :
    SlotsLaw (handOutcome i at' .goodHeat s) := by
  obtain ⟨-, -, htxn⟩ := id h
  have hkept : SlotsRel SlotKept s (handOutcome i at' .goodHeat s) :=
    reportKeeps_slotKept.handOutcome at' .goodHeat (fun _ _ _ _ h => nomatch h) fun q hq _ => by cases hr.symm.trans hq; exact hk
  refine slotsLaw_of_rel h hkept fun l x hx => ?_
  rw [(handOutcome_probesOnly _ _ _ _).line] at hx
  by_cases hl : r.line = l
  · subst hl; exact txnLaw_of_completed (hdone x hx)
  · refine (htxn l x hx).congr fun q hq hql => ⟨q, ?_, reportKeeps_slotKeptCalm.refl q⟩
    have hne : x.slot ≠ i := by
      rintro rfl
      cases hr.symm.trans hq
      exact hl hql
    rw [onlySlot_handGoodHeat i at' s _ hne]
    exact hq

theorem slotsLaw_complete_goodHeat {s : State} (h : SlotsLaw s) {l : LineId} {ln : Line} {t : Txn}
    (hb : (s.line l).state = .busy t) (hf : t.inFlight = true) (hcmd : t.command ≠ .read) :
    SlotsLaw (complete l ln t .turnaround .goodHeat s) := by
  obtain ⟨-, -, htxn⟩ := id h
  have hset := slotsLaw_completed (l := l) (ln := ln) (t := t) h (.inr rfl)
  unfold complete
  dsimp only
  split
  · exact hset
  next ho =>
    obtain ⟨r, hr, hline, -, -, -, -, hair⟩ := htxn l t hb hf (Bool.eq_false_iff.mpr ho)
    refine slotsLaw_handGoodHeat hset _ hr (hair hcmd) fun x hx => ?_
    rw [hline, line_setLine_same] at hx
    cases hx
    rfl

/-! ### Every effect -/

theorem slotsLaw_of_noSlots {s : State} (hs : ∀ i, s.slot i = none) (hl : ∀ l x, (s.line l).state ≠ .busy x) : SlotsLaw s :=
  ⟨fun i _ h => (nomatch (hs i).symm.trans h), fun i _ _ _ h _ => (nomatch (hs i).symm.trans h), fun l x h => absurd h (hl l x)⟩

theorem line_resetAll (ts : Tables) (rate : LinkRate) (s : State) (l : LineId) :
    (resetAll ts rate s).line l = .reset (s.line l).activeLevel := Vector.getElem_map ..

theorem slotsLaw_resetAll (ts : Tables) (rate : LinkRate) (s : State) : SlotsLaw (resetAll ts rate s) :=
  slotsLaw_of_noSlots (slot_resetAll ts rate s) fun l x hx => by rw [line_resetAll] at hx; cases hx

/-- A line that enters FAULT loses its transaction, and its slots are given misses. -/
theorem slotsLaw_enterFault {s : State} (h : SlotsLaw s) (l : LineId) (ln : Line) : SlotsLaw (enterFault l ln s) := by
  have hset : SlotsLaw (s.setLine l { ln with state := .fault, driveEnable := false, activeStretch := false, restStretch := false }) :=
    slotsLaw_setLine_quiet h nofun
  refine slotsLaw_calm_sameLines hset (reportKeeps_slotKeptCalm.enterFault l ln s) ?_
  unfold enterFault
  dsimp only
  rw [(inFreeOrder_probesOnly faultMiss_probesOnly _ _).lines, (cutTransaction_probesOnly _ _).lines]
  exact (emit_noticesOnly _ _).lines

theorem leaving_state {l : Line} {x : Txn} (h : l.leaving.state = .busy x) : ∃ u, l.state = .busy u ∧ u.Follows x := by
  unfold Line.leaving at h
  split at h
  next hs => cases hs.symm.trans h
  next u hu =>
    refine ⟨u, hu, ?_⟩
    split at h
    next => cases hu.symm.trans h; exact ⟨rfl, rfl, rfl, rfl, rfl, id, id⟩
    next hp => cases h; exact ⟨rfl, rfl, rfl, rfl, rfl, fun _ => (inFlight_iff u).mpr (.inr (.inl hp)), id⟩
    all_goals cases hu.symm.trans h; exact ⟨rfl, rfl, rfl, rfl, rfl, id, id⟩
  next hs => cases hs.symm.trans h
  next hs => cases hs.symm.trans h

theorem effect_keeps_slotsLaw (s t : State) (e : Effect s t) (h : SlotsLaw s) : SlotsLaw t := by
  have hcalm := reportKeeps_slotKeptCalm.toMissKeeps
  obtain ⟨hvalids, -, htxn⟩ := id h
  have hflight : ∀ {x : Txn}, x.receiving = true → x.inFlight = true := fun {x} hx =>
    (inFlight_iff x).mpr (.inr (.inr (x.receiving_iff.mp hx).1))
  cases e with
  | setup => exact slotsLaw_setLine_quiet h nofun
  | stop => exact slotsLaw_setLine_quiet h nofun
  | enrol i _ _ _ _ _ _ _ r _ hp hv hd => exact slotsLaw_missIfFaulted (slotsLaw_enrol h hv (valid_of_parseEnrolment hp) hd) i
  | withdraw _ _ _ hr => exact slotsLaw_withdraw h hr
  | hold _ _ _ hr hh => exact slotsLaw_setSlot_calm h hr ⟨⟨rfl, rfl, rfl, rfl, valid_held hh⟩, fun _ => nofun⟩
  | release i r _ hr hd =>
    have hkept : SlotKeptCalm r { r.madePending s.timeBase with misses := 0 } := ⟨⟨rfl, rfl, rfl, rfl, fun hv => ?_⟩, fun _ => nofun⟩
    · exact slotsLaw_missIfFaulted (slotsLaw_setSlot_calm h hr hkept) i
    have hend : r.heatEnd = none := by
      obtain ⟨-, -, -, -, -, -, -, -, -, -, -, hend, -⟩ := hv
      exact Classical.byContradiction fun hne => nomatch hd.symm.trans (hend.mp hne)
    have hpend := valid_madePending s.timeBase (.inl hd) (Nat.zero_le 15) hv
    rw [← hend] at hpend
    exact hpend
  | force _ _ _ hr hk hs => exact slotsLaw_setSlot_calm h hr ⟨⟨rfl, rfl, rfl, rfl, valid_forced hk hs⟩, id⟩
  | define z _ _ _ _ _ _ d => exact slotsLaw_calm_sameLines h (hcalm.defineZone z d s) (defineZone_cycleOnly z d s).lines
  | close z r => exact slotsLaw_calm_sameLines h (hcalm.closeZone z r s) (closeZone_cycleOnly z r s).lines
  | expiry z => exact slotsLaw_calm_sameLines h (calm_of_slots (takeHead_slots (enqueue z _))) (joinDueQueue_cycleOnly z _).lines
  | completion c => exact slotsLaw_calm_sameLines h (hcalm.completeEvaluation c s) (completeEvaluation_cycleOnly c s).lines
  | commit k => exact slotsLaw_calm_sameLines h (calm_of_slots (makePending_slots k s)) (makePending_cycleOnly k s).lines
  | select k => exact slotsLaw_calm_sameLines h (calm_of_slots (makePending_slots k s)) (makePending_cycleOnly k s).lines
  | reset => exact slotsLaw_resetAll _ _ s
  | restart => exact slotsLaw_resetAll _ _ s
  | due i _ _ hr => exact slotsLaw_missIfFaulted (slotsLaw_setSlot_calm h hr (hcalm.timed _ _ _ _ _)) i
  | heatEnd i r _ hr hs =>
    refine slotsLaw_calm_sameLines h (hcalm.endHeat hr ⟨⟨rfl, rfl, rfl, rfl, fun hv => ?_⟩, fun _ => nofun⟩) (endHeat_probesOnly i r s).lines
    obtain ⟨-, -, -, -, -, -, hmiss, -⟩ := id hv
    exact valid_madePending s.timeBase (.inr hs) hmiss hv
  | pollStart l i r _ _ _ hc hr => exact slotsLaw_setLine h fun x hx => by cases hx; exact txnLaw_startTxn h hc hr
  | pollSent l x _ hb hp =>
    exact slotsLaw_setLine_follow h hb rfl ⟨rfl, rfl, rfl, rfl, rfl, fun _ => (inFlight_iff x).mpr (.inl hp), id⟩
  | leave l =>
    refine slotsLaw_setLine h fun x hx => ?_
    obtain ⟨u, hu, hf⟩ := leaving_state hx
    exact (htxn l u hu).follow hf
  | rest l => exact slotsLaw_setLine h fun x hx => htxn l x hx
  | early l ln x p o _ _ hb ht hp =>
    refine slotsLaw_complete_calm h hb hp ((inFlight_iff x).mpr ?_) nofun
    obtain ht | ht := ht
    · exact .inr (.inl ht)
    · exact .inr (.inr ht)
  | character l x b _ hb => exact slotsLaw_setLine_follow h hb rfl ⟨rfl, rfl, rfl, rfl, rfl, id, id⟩
  | whole l x b rep _ hb ht hj =>
    by_cases hrep : rep = .goodHeat
    · subst hrep; exact slotsLaw_complete_goodHeat h hb (hflight ht) (command_of_goodHeat hj)
    · exact slotsLaw_complete_calm h hb (.inr rfl) (hflight ht) hrep
  | framing l x _ hb => exact slotsLaw_setLine_follow h hb rfl ⟨rfl, rfl, rfl, rfl, rfl, id, id⟩
  | discarded l x _ hb => exact slotsLaw_setLine_follow h hb rfl ⟨rfl, rfl, rfl, rfl, rfl, nofun, id⟩
  | turned => exact slotsLaw_setLine_quiet h nofun
  | fault l => exact slotsLaw_enterFault h l _
  | recovery l =>
    have hset : SlotsLaw (s.setLine l { s.line l with state := .idle, restStretch := false }) := slotsLaw_setLine_quiet h nofun
    exact slotsLaw_calm_sameLines hset (hcalm.rel_noticesOnly (emit_noticesOnly _ _)) (emit_noticesOnly _ _).lines
  | link | carry | sent | overflowRead | params | alerts | begin | element | tick =>
    exact slotsLaw_calm_sameLines h (calm_of_slots rfl) rfl
  -- The constructor left, a line's return to the idle level, has a keyword for its name.
  | _ => next l _ _ => exact slotsLaw_setLine h fun x hx => htxn l x hx

/-- Settles O58: outcomes and requests keep every slot valid and where it is, a poll is started for a slot of its line that is not
HEATING, and a slot leaves its transaction only by a withdrawal, which orphans it. -/
theorem stepKeepsSlotsLaw : Obligations.StepKeepsSlotsLaw :=
  fun _ _ => step_keeps (fun _ _ h => h) effect_keeps_slotsLaw

end Sys2Proof.Machine
end

section
/-! The law of the exchange along the link controller's own operations (R169 to R175). -/

namespace Sys2Proof.Machine

/-! ### Changes apart from the link -/

/-- The link is as it was, and the frame in transmission carries no more notices than it did. -/
structure Apart (s t : State) : Prop where
  link : t.link = s.link
  carried : t.notices.carried ≤ s.notices.carried

/-- A frame never comes to carry more notices by an arrival. -/
theorem noticesInv_carried (n : Nat) : NoticesInv (fun s => s.notices.carried ≤ n) where
  congr := fun {s t} hs h => by
    show t.notices.carried ≤ n
    rw [h]; exact hs
  arrive m s hs := by
    unfold arrive
    dsimp only
    split
    · split <;> exact hs
    · split
      · exact hs
      · exact Nat.le_trans (Nat.sub_le _ _) hs

theorem Apart.of {s t : State} (hl : t.link = s.link) (hn : ∀ P, NoticesInv P → P s → P t) : Apart s t :=
  ⟨hl, hn _ (noticesInv_carried _) (Nat.le_refl _)⟩

theorem Apart.same {s t : State} (hl : t.link = s.link) (hn : t.notices = s.notices) : Apart s t :=
  ⟨hl, Nat.le_of_eq (congrArg (·.carried) hn)⟩

theorem Apart.refl (s : State) : Apart s s := .same rfl rfl

/-! ### The law of the exchange, clause by clause -/

/-- The partial frame is no longer than its length byte lets it be (R169). -/
def PartialHeld (k : Link) : Prop :=
  ∀ p, k.partialFrame = some p → ∀ len, p[2]? = some len → len.toNat ≤ 64 ∧ p.length < len.toNat + 5

/-- What the law says of the open exchange. -/
structure ExchangeHeld (k : Link) (x : Exchange) : Prop where
  moved : x.moved ≤ x.expected
  receiving : k.state = .receiving → x.taken < x.expected ∧ x.taken = x.moved + (if x.held.isSome then 1 else 0)
  sending : k.state = .sending → x.source ≠ none
  frame : ∀ f, k.dataFrame = some f → f.body.length ≤ 64 ∧ x.moved + f.body.length ≤ x.expected

/-- The law of the exchange with its clauses named. -/
structure LinkHeld (k : Link) (carried : Nat) : Prop where
  closed_iff : k.exchange = none ↔ k.state = .idle ∧ k.result = none
  idle_of_result : k.result ≠ none → k.state = .idle
  data_iff : k.dataFrame ≠ none ↔ k.state = .sending
  waiting : k.waiting ≠ none → k.state = .sending ∨ k.result ≠ none
  restart : k.restartPending = true → k.result ≠ none
  opened : ∀ x, k.exchange = some x → ExchangeHeld k x
  partialHeld : PartialHeld k
  carries : carried ≠ 0 → ∃ x, k.state = .sending ∧ k.exchange = some x ∧ x.source = some .notices

theorem linkLaw_iff (s : State) : LinkLaw s ↔ LinkHeld s.link s.notices.carried :=
  ⟨fun ⟨h1, h2, h3, h4, h5, h6, h7, h8⟩ =>
      ⟨h1, h2, h3, h4, h5, fun x hx => let ⟨a, b, c, d⟩ := h6 x hx; ⟨a, b, c, d⟩, h7, h8⟩,
    fun ⟨h1, h2, h3, h4, h5, h6, h7, h8⟩ =>
      ⟨h1, h2, h3, h4, h5, fun x hx => let ⟨a, b, c, d⟩ := h6 x hx; ⟨a, b, c, d⟩, h7, h8⟩⟩

theorem linkLaw_apart {s t : State} (h : LinkLaw s) (a : Apart s t) : LinkLaw t := by
  obtain ⟨h1, h2, h3, h4, h5, h6, h7, h8⟩ := (linkLaw_iff s).mp h
  refine (linkLaw_iff t).mpr ?_
  rw [a.link]
  exact ⟨h1, h2, h3, h4, h5, h6, h7, fun hc => h8 fun h0 => hc (Nat.le_zero.mp (h0 ▸ a.carried))⟩

/-- Only a frame in transmission carries notices. -/
theorem LinkLaw.carried_eq_zero {s : State} (h : LinkLaw s) (hs : s.link.state ≠ .sending) : s.notices.carried = 0 := by
  obtain ⟨-, -, -, -, -, -, -, hcar⟩ := h
  exact Classical.byContradiction fun hc => let ⟨_, hx, _⟩ := hcar hc; hs hx

/-! ### Results -/

/-- An exchange is open whose result can be built: no frame of it is in transmission any more. -/
structure Replying (s : State) (x : Exchange) : Prop where
  opened : s.link.exchange = some x
  moved : x.moved ≤ x.expected
  partialHeld : PartialHeld s.link
  carried : s.notices.carried = 0

theorem Replying.apart {s t : State} {x : Exchange} (h : Replying s x) (a : Apart s t) : Replying t x := by
  obtain ⟨h1, h2, h3, h4⟩ := h
  exact ⟨by rw [a.link]; exact h1, h2, by rw [a.link]; exact h3, Nat.le_zero.mp (h4 ▸ a.carried)⟩

theorem Replying.linkLaw {s : State} {x : Exchange} (h : Replying s x) (o : Outcome) (r : Reason) (f : List Byte) :
    LinkLaw (sendResult o r f s) := by
  obtain ⟨hx, hm, hp, hc⟩ := h
  unfold sendResult
  rw [hx]
  refine (linkLaw_iff _).mpr ⟨iff_of_false nofun fun h => (nomatch h.2), fun _ => rfl, iff_of_false (fun h => h rfl) nofun,
    fun _ => .inr nofun, fun _ => nofun, fun y hy => ?_, hp, fun h => absurd hc h⟩
  cases hy
  exact ⟨hm, nofun, nofun, nofun⟩

theorem LinkLaw.replying {s : State} {x : Exchange} (h : LinkLaw s) (hx : s.link.exchange = some x) (hs : s.link.state ≠ .sending) :
    Replying s x := by
  obtain ⟨-, -, -, -, -, hopen, hpart, -⟩ := (linkLaw_iff s).mp h
  exact ⟨hx, (hopen x hx).moved, hpart, h.carried_eq_zero hs⟩

/-- In RECEIVING an exchange is open. -/
theorem LinkLaw.replying_of_receiving {s : State} (h : LinkLaw s) (hs : s.link.state = .receiving) : ∃ x, Replying s x := by
  obtain ⟨hnone, -⟩ := (linkLaw_iff s).mp h
  cases hx : s.link.exchange with
  | none => exact nomatch hs.symm.trans (hnone.mp hx).1
  | some x => exact ⟨x, h.replying hx (by rw [hs]; nofun)⟩

theorem linkLaw_endSending {s : State} {x : Exchange} (h : Replying s x) (o : Outcome) : LinkLaw (endSending o s) := by
  unfold endSending
  split
  · exact h.linkLaw _ _ _
  · refine Replying.linkLaw (x := x) ?_ _ _ _
    exact ⟨h.opened, h.moved, h.partialHeld, h.carried⟩
  · exact h.linkLaw _ _ _

/-! ### Data frames -/

/-- A frame's body stays within 64 bytes and within what is left of E. -/
theorem fillFrame_fits (room : Nat) (body : List Byte) (n : Nat) (recs : List (List Byte)) (h64 : body.length ≤ 64)
    (hroom : body.length ≤ room) : (fillFrame room body n recs).body.length ≤ 64 ∧ (fillFrame room body n recs).body.length ≤ room := by
  induction recs generalizing body n with
  | nil => exact ⟨h64, hroom⟩
  | cons r rest ih =>
    unfold fillFrame
    split
    · exact ⟨h64, hroom⟩
    next h1 =>
      split
      · exact ⟨h64, hroom⟩
      next h2 => exact ih _ _ (by rw [List.length_append]; omega) (by rw [List.length_append]; omega)

/-- An exchange of direction FROM_PART goes on: its next frame, or its result. -/
theorem linkLaw_buildNext {s : State} {x : Exchange} {src : RecordSource} (h : Replying s x) (hsrc : x.source = some src)
    (hres : s.link.result = none) (hrestart : s.link.restartPending = false) : LinkLaw (buildNext s) := by
  obtain ⟨hx, hm, hp, hc⟩ := id h
  unfold buildNext
  rw [hx]
  dsimp only
  rw [hsrc]
  dsimp only
  split
  · exact linkLaw_endSending h _
  · have hfit := fillFrame_fits (x.expected - x.moved) [] 0 (remainingRecords s src) (Nat.zero_le _) (Nat.zero_le _)
    refine (linkLaw_iff _).mpr ⟨iff_of_false nofun nofun, fun hne => absurd hres hne, iff_of_true nofun rfl, fun _ => .inl rfl,
      fun hr => (nomatch hrestart.symm.trans hr), fun y hy => ?_, hp, fun hcar => ?_⟩
    · cases hy
      refine ⟨hm, nofun, nofun, fun f hf => ?_⟩
      cases hf
      exact ⟨hfit.1, by dsimp only; omega⟩
    · refine ⟨_, rfl, rfl, ?_⟩
      dsimp only at hcar ⊢
      split at hcar
      next hn => rw [hn]; rfl
      next => exact absurd hc hcar

/-! ### A request taken -/

/-- A request has just opened its exchange (R172). -/
structure Taken (tag op : Byte) (e : Nat) (s : State) : Prop where
  opened : s.link.exchange = some (exchangeOf tag op e)
  idle : s.link.state = .idle
  result : s.link.result = none
  dataFrame : s.link.dataFrame = none
  waiting : s.link.waiting = none
  restart : s.link.restartPending = false
  partialHeld : PartialHeld s.link
  carried : s.notices.carried = 0

section
variable {tag op : Byte} {e : Nat} {s : State} (h : Taken tag op e s)
include h

theorem Taken.replying : Replying s (exchangeOf tag op e) := ⟨h.opened, Nat.zero_le _, h.partialHeld, h.carried⟩

theorem Taken.refuse (r : Reason) (f : List Byte) : LinkLaw (refuse r s f) := h.replying.linkLaw _ _ _

theorem Taken.okResult {t : State} (a : Apart s t) (f : List Byte) : LinkLaw (okResult t f) := (h.replying.apart a).linkLaw _ _ _

theorem Taken.startSending (src : RecordSource) : LinkLaw (startSending src s) := by
  unfold Machine.startSending
  rw [h.opened]
  exact linkLaw_buildNext (x := { exchangeOf tag op e with source := some src }) ⟨rfl, Nat.zero_le _, h.partialHeld, h.carried⟩ rfl
    h.result h.restart

/-- A TO_PART request with something to receive begins its data phase. -/
theorem Taken.receiving (he : 0 < e) : LinkLaw { s with link := { s.link with state := .receiving } } := by
  refine (linkLaw_iff _).mpr ⟨iff_of_false (fun hn => nomatch h.opened.symm.trans hn) nofun, fun hne => absurd h.result hne,
    iff_of_false (fun hne => hne h.dataFrame) nofun, fun hw => absurd h.waiting hw, fun hr => (nomatch h.restart.symm.trans hr),
    fun x hx => ?_, h.partialHeld, fun hc => absurd h.carried hc⟩
  cases h.opened.symm.trans hx
  exact ⟨Nat.zero_le _, fun _ => ⟨he, rfl⟩, nofun, fun f hf => (nomatch h.dataFrame.symm.trans hf)⟩

end

/-- The exchange record of an IDLE part with no result in transmission. -/
theorem taken_openExchange {s : State} (h : LinkLaw s) (hr : Ready s) (tag op : Byte) (e : Nat) :
    Taken tag op e (openExchange tag op e s) := by
  obtain ⟨hidle, hres⟩ := hr
  obtain ⟨-, -, hdata, hwait, hrestart, -, hpart, -⟩ := (linkLaw_iff s).mp h
  have hns : s.link.state ≠ .sending := by rw [hidle]; nofun
  refine ⟨rfl, hidle, hres, Classical.byContradiction fun hne => hns (hdata.mp hne), Classical.byContradiction fun hne => ?_, ?_, hpart, h.carried_eq_zero hns⟩
  · exact (hwait hne).elim hns fun hne => hne hres
  · exact Bool.eq_false_iff.mpr fun ht => hrestart ht hres

theorem linkLaw_takeNone {s : State} (h : LinkLaw s) (hr : Ready s) {op : Op} {tag : Byte} {e : Word16} {act : State → State}
    (ha : ∀ u, Taken tag op.code e.toNat u → LinkLaw (act u)) : LinkLaw (takeNone op tag e act s) := by
  have ht := taken_openExchange h hr tag op.code e.toNat
  unfold takeNone
  dsimp only
  split
  · exact ha _ ht
  · exact ht.refuse _ _

theorem linkLaw_takeData {s : State} (h : LinkLaw s) (hr : Ready s) {op : Op} {tag : Byte} {e : Word16} {act : State → State}
    (ha : ∀ u, Taken tag op.code e.toNat u → LinkLaw (act u)) : LinkLaw (takeData op tag e act s) := by
  have ht := taken_openExchange h hr tag op.code e.toNat
  unfold takeData
  dsimp only
  split
  · exact ha _ ht
  · exact ht.refuse _ _

/-! ### Requests -/

theorem apart_missIfFaulted (i : SlotId) (r : Option Slot) (s : State) : Apart s (missIfFaulted i (s.setSlot i r)) :=
  .of (missIfFaulted_setSlot_probesOnly i r s).link fun _ h p => h.missIfFaulted i _ (h.congr p rfl)

theorem apart_makePending (k : BankId) (s : State) : Apart s (makePending k s) :=
  .of (makePending_cycleOnly k s).link fun _ h => h.makePending k s

theorem apart_defineZone (z : ZoneId) (d : ZoneDef) (s : State) : Apart s (defineZone z d s) :=
  .of (defineZone_cycleOnly z d s).link fun _ h => h.defineZone z d s

theorem apart_closeZone (z : ZoneId) (r : Zone) (s : State) : Apart s (closeZone z r s) :=
  .of (closeZone_cycleOnly z r s).link fun _ h => h.closeZone z r s

theorem apart_onAlertLine {n : Byte} {act : AlertLine → AlertLine} {s t : State} (h : onAlertLine n act s = some t) : Apart s t := by
  unfold onAlertLine at h
  split at h
  · cases h; exact .same rfl rfl
  · cases h; exact .same rfl rfl
  · cases h

section
variable {s : State} (h : LinkLaw s) (hr : Ready s) (tag : Byte) (e : Word16) (params : List Byte)
include h hr

theorem linkLaw_takeIdentify : LinkLaw (takeIdentify tag e params s) := by
  refine linkLaw_takeData h hr fun u ht => ?_
  split
  · exact ht.startSending _
  · exact ht.refuse _ _

theorem linkLaw_takeReadStatus : LinkLaw (takeReadStatus tag e params s) := by
  refine linkLaw_takeData h hr fun u ht => ?_
  split
  · exact ht.startSending _
  · exact ht.refuse _ _

theorem linkLaw_takeParamSet : LinkLaw (takeParamSet tag e params s) := by
  refine linkLaw_takeNone h hr fun u ht => ?_
  repeat' split
  · exact ht.okResult (by exact .same rfl rfl) _
  all_goals exact ht.refuse _ _

theorem linkLaw_takeParamGet : LinkLaw (takeParamGet tag e params s) := by
  refine linkLaw_takeNone h hr fun u ht => ?_
  repeat' split
  · exact ht.okResult (.refl u) _
  all_goals exact ht.refuse _ _

theorem linkLaw_takeRestart : LinkLaw (takeRestart tag e params s) := by
  refine linkLaw_takeNone h hr fun u ht => ?_
  split
  · refine Replying.linkLaw (x := exchangeOf tag Op.restart.code e.toNat) ?_ _ _ _
    exact ⟨ht.opened, Nat.zero_le _, ht.partialHeld, ht.carried⟩
  · exact ht.refuse _ _

theorem linkLaw_takeLineSetup : LinkLaw (takeLineSetup tag e params s) := by
  refine linkLaw_takeNone h hr fun u ht => ?_
  repeat' split
  · exact ht.okResult (by exact .same rfl rfl) _
  all_goals exact ht.refuse _ _

theorem linkLaw_takeLineStop : LinkLaw (takeLineStop tag e params s) := by
  refine linkLaw_takeNone h hr fun u ht => ?_
  repeat' split
  · exact ht.okResult (.refl u) _
  · exact ht.okResult (by exact .same rfl rfl) _
  all_goals exact ht.refuse _ _

theorem linkLaw_takeProbeEnrol : LinkLaw (takeProbeEnrol tag e params s) := by
  refine linkLaw_takeNone h hr fun u ht => ?_
  repeat' split
  · exact ht.refuse _ _
  · exact ht.refuse _ _
  · exact ht.okResult (apart_missIfFaulted _ _ u) _
  all_goals exact ht.refuse _ _

theorem linkLaw_takeProbeWithdraw : LinkLaw (takeProbeWithdraw tag e params s) := by
  refine linkLaw_takeNone h hr fun u ht => ?_
  repeat' split
  · exact ht.refuse _ _
  · exact ht.refuse _ _
  · exact ht.okResult (by exact .same rfl rfl) _
  all_goals exact ht.refuse _ _

theorem linkLaw_takeProbeHold : LinkLaw (takeProbeHold tag e params s) := by
  refine linkLaw_takeNone h hr fun u ht => ?_
  repeat' split
  · exact ht.refuse _ _
  · exact ht.refuse _ _
  · exact ht.okResult (.refl u) _
  · exact ht.okResult (by exact .same rfl rfl) _
  all_goals exact ht.refuse _ _

theorem linkLaw_takeProbeRelease : LinkLaw (takeProbeRelease tag e params s) := by
  refine linkLaw_takeNone h hr fun u ht => ?_
  repeat' split
  · exact ht.okResult (apart_missIfFaulted _ _ u) _
  all_goals exact ht.refuse _ _

theorem linkLaw_takeReadProbes : LinkLaw (takeReadProbes tag e params s) := by
  refine linkLaw_takeData h hr fun u ht => ?_
  repeat' split
  · exact ht.startSending _
  all_goals exact ht.refuse _ _

theorem linkLaw_takeHeatProbe : LinkLaw (takeHeatProbe tag e params s) := by
  refine linkLaw_takeNone h hr fun u ht => ?_
  repeat' split
  · exact ht.refuse _ _
  · exact ht.refuse _ _
  · exact ht.refuse _ _
  · exact ht.okResult (.refl u) _
  · exact ht.okResult (by exact .same rfl rfl) _
  all_goals exact ht.refuse _ _

theorem linkLaw_takeZoneDefine : LinkLaw (takeZoneDefine tag e params s) := by
  refine linkLaw_takeNone h hr fun u ht => ?_
  repeat' split
  · exact ht.refuse _ _
  · exact ht.refuse _ _
  · exact ht.okResult (apart_defineZone _ _ u) _
  all_goals exact ht.refuse _ _

theorem linkLaw_takeZoneClose : LinkLaw (takeZoneClose tag e params s) := by
  refine linkLaw_takeNone h hr fun u ht => ?_
  repeat' split
  · exact ht.okResult (apart_closeZone _ _ u) _
  · exact ht.okResult (.refl u) _
  all_goals exact ht.refuse _ _

theorem linkLaw_takeReadZones : LinkLaw (takeReadZones tag e params s) := by
  refine linkLaw_takeData h hr fun u ht => ?_
  repeat' split
  · exact ht.startSending _
  all_goals exact ht.refuse _ _

theorem linkLaw_takeTableBegin : LinkLaw (takeTableBegin tag e params s) := by
  refine linkLaw_takeNone h hr fun u ht => ?_
  repeat' split
  · exact ht.refuse _ _
  · exact ht.okResult (by exact .same rfl rfl) _
  all_goals exact ht.refuse _ _

theorem linkLaw_takeTableLoad : LinkLaw (takeTableLoad tag e params s) := by
  refine linkLaw_takeData h hr fun u ht => ?_
  repeat' split
  · exact ht.refuse _ _
  · exact ht.okResult (.refl u) _
  next he => exact ht.receiving (Nat.pos_of_ne_zero fun h0 => he (BitVec.eq_of_toNat_eq h0))
  · exact ht.refuse _ _

theorem linkLaw_takeTableCommit : LinkLaw (takeTableCommit tag e params s) := by
  refine linkLaw_takeNone h hr fun u ht => ?_
  repeat' split
  · exact ht.refuse _ _
  · exact ht.refuse _ _
  · exact ht.refuse _ _
  · exact ht.refuse _ _
  · exact ht.okResult (apart_makePending _ u) _
  all_goals exact ht.refuse _ _

theorem linkLaw_takeTableSelect : LinkLaw (takeTableSelect tag e params s) := by
  refine linkLaw_takeNone h hr fun u ht => ?_
  repeat' split
  · exact ht.okResult (.refl u) _
  · exact ht.okResult (.refl u) _
  · exact ht.refuse _ _
  · exact ht.okResult (apart_makePending _ u) _
  all_goals exact ht.refuse _ _

theorem linkLaw_takeTableRead : LinkLaw (takeTableRead tag e params s) := by
  refine linkLaw_takeData h hr fun u ht => ?_
  repeat' split
  · exact ht.startSending _
  all_goals exact ht.refuse _ _

theorem linkLaw_takeFetchNotices : LinkLaw (takeFetchNotices tag e params s) := by
  refine linkLaw_takeData h hr fun u ht => ?_
  split
  · exact ht.startSending _
  · exact ht.refuse _ _

theorem linkLaw_takeRouteSet : LinkLaw (takeRouteSet tag e params s) := by
  refine linkLaw_takeNone h hr fun u ht => ?_
  repeat' split
  next ha => exact ht.okResult (apart_onAlertLine ha) _
  all_goals exact ht.refuse _ _

theorem linkLaw_takeClearAlert : LinkLaw (takeClearAlert tag e params s) := by
  refine linkLaw_takeNone h hr fun u ht => ?_
  repeat' split
  next ha => exact ht.okResult (apart_onAlertLine ha) _
  all_goals exact ht.refuse _ _

theorem linkLaw_takeOp (op : Op) : LinkLaw (takeOp op tag e params s) := by
  cases op
  · exact linkLaw_takeIdentify h hr tag e params
  · exact linkLaw_takeReadStatus h hr tag e params
  · exact linkLaw_takeParamSet h hr tag e params
  · exact linkLaw_takeParamGet h hr tag e params
  · exact linkLaw_takeRestart h hr tag e params
  · exact linkLaw_takeLineSetup h hr tag e params
  · exact linkLaw_takeLineStop h hr tag e params
  · exact linkLaw_takeProbeEnrol h hr tag e params
  · exact linkLaw_takeProbeWithdraw h hr tag e params
  · exact linkLaw_takeProbeHold h hr tag e params
  · exact linkLaw_takeProbeRelease h hr tag e params
  · exact linkLaw_takeReadProbes h hr tag e params
  · exact linkLaw_takeHeatProbe h hr tag e params
  · exact linkLaw_takeZoneDefine h hr tag e params
  · exact linkLaw_takeZoneClose h hr tag e params
  · exact linkLaw_takeReadZones h hr tag e params
  · exact linkLaw_takeTableBegin h hr tag e params
  · exact linkLaw_takeTableLoad h hr tag e params
  · exact linkLaw_takeTableCommit h hr tag e params
  · exact linkLaw_takeTableSelect h hr tag e params
  · exact linkLaw_takeTableRead h hr tag e params
  · exact linkLaw_takeFetchNotices h hr tag e params
  · exact linkLaw_takeRouteSet h hr tag e params
  · exact linkLaw_takeClearAlert h hr tag e params

end

theorem linkLaw_takeRequest {s : State} (h : LinkLaw s) (hr : Ready s) (tag : Byte) (body : List Byte) :
    LinkLaw (takeRequest tag body s) := by
  unfold takeRequest
  repeat' split
  · exact linkLaw_takeOp h hr _ _ _ _
  all_goals exact (taken_openExchange h hr _ _ _).refuse _ _

end Sys2Proof.Machine
end

section
/-! The law of the exchange along every command (R169 to R175): frames as they end, bytes, transmissions, and the events that leave the
link alone. -/

namespace Sys2Proof.Machine

/-! ### Frames as they end -/

theorem linkLaw_holdWaiting {s : State} (h : LinkLaw s) (hs : s.link.state = .sending ∨ s.link.result ≠ none) (tag : Byte)
    (body : List Byte) : LinkLaw (holdWaiting tag body s) := by
  obtain ⟨h1, h2, h3, -, h5, h6, h7, h8⟩ := (linkLaw_iff s).mp h
  exact (linkLaw_iff _).mpr
    ⟨h1, h2, h3, fun _ => hs, h5, fun x hx => let ⟨a, b, c, d⟩ := h6 x hx; ⟨a, b, c, d⟩, h7, h8⟩

theorem linkLaw_dropPartial {s : State} (h : LinkLaw s) : LinkLaw (dropPartial s) := by
  obtain ⟨h1, h2, h3, h4, h5, h6, -, h8⟩ := (linkLaw_iff s).mp h
  exact (linkLaw_iff _).mpr ⟨h1, h2, h3, h4, h5, fun x hx => let ⟨a, b, c, d⟩ := h6 x hx; ⟨a, b, c, d⟩, nofun, h8⟩

theorem sendResult_result {s : State} {x : Exchange} (h : s.link.exchange = some x) (o : Outcome) (r : Reason) (f : List Byte) :
    (sendResult o r f s).link.result ≠ none := by
  unfold sendResult
  rw [h]
  nofun

theorem linkLaw_frameDamaged {s : State} (h : LinkLaw s) : LinkLaw (frameDamaged s) := by
  unfold frameDamaged
  split
  next hs => obtain ⟨x, hx⟩ := h.replying_of_receiving hs; exact hx.linkLaw _ _ _
  all_goals exact h

theorem linkLaw_goodRequest {s : State} (h : LinkLaw s) (tag : Byte) (body : List Byte) {take : State → State}
    (ht : Ready s → LinkLaw (take s)) : LinkLaw (goodRequest tag body take s) := by
  unfold goodRequest
  split
  next hr => exact linkLaw_holdWaiting h (.inr (by rw [hr]; nofun)) tag body
  next hr hs => exact ht ⟨hs, hr⟩
  next hs =>
    obtain ⟨x, hx⟩ := h.replying_of_receiving hs
    exact linkLaw_holdWaiting (hx.linkLaw _ _ _) (.inr (sendResult_result hx.opened _ _ _)) tag body
  next hs => exact linkLaw_holdWaiting h (.inl hs) tag body

theorem linkLaw_requestFrame {s : State} (h : LinkLaw s) (tag : Byte) (body : List Byte) {take : State → State}
    (ht : ∀ u, LinkLaw u → Ready u → LinkLaw (take u)) : LinkLaw (requestFrame tag body take s) := by
  unfold requestFrame
  split
  · exact linkLaw_goodRequest (linkLaw_dropPartial h) tag body (ht _ (linkLaw_dropPartial h))
  · exact linkLaw_frameDamaged (linkLaw_dropPartial h)

/-! ### The bytes of a DATA frame -/

/-- The counts of bytes of a TO_PART data phase agree (R173). -/
structure CountsAgree (x : Exchange) : Prop where
  taken : x.taken ≤ x.expected
  held : x.taken = x.moved + (if x.held.isSome then 1 else 0)

theorem countsAgree_loadBytes (t : Tables) (x : Exchange) (bs : List Byte) (h : CountsAgree x) :
    CountsAgree (loadBytes t x bs).2.1 := by
  induction bs generalizing t x with
  | nil => exact h
  | cons b bs ih =>
    obtain ⟨htaken, hheld⟩ := id h
    unfold loadBytes
    split
    · exact h
    next hlt =>
      split
      · exact h
      · split
        next hx =>
          rw [hx] at hheld
          refine ih _ _ ⟨Nat.lt_of_not_le hlt, ?_⟩
          simp only [Option.isSome_none, Bool.false_eq_true, if_false] at hheld
          simp only [Option.isSome_some, if_true]
          omega
        next hx =>
          rw [hx] at hheld
          refine ih _ _ ⟨Nat.lt_of_not_le hlt, ?_⟩
          simp only [Option.isSome_some, if_true] at hheld
          simp only [Option.isSome_none, Bool.false_eq_true, if_false]
          omega

theorem linkLaw_consumeData {s : State} (h : LinkLaw s) (hs : s.link.state = .receiving) (body : List Byte) :
    LinkLaw (consumeData body s) := by
  unfold consumeData
  split
  · exact h
  next x hx =>
    obtain ⟨-, h2, h3, h4, h5, h6, h7, h8⟩ := (linkLaw_iff s).mp h
    have hns : s.link.state ≠ .sending := by rw [hs]; nofun
    have hni : s.link.state ≠ .idle := by rw [hs]; nofun
    obtain ⟨hlt, heq⟩ := (h6 x hx).receiving hs
    obtain ⟨htaken, hheld⟩ := countsAgree_loadBytes s.tables x body ⟨Nat.le_of_lt hlt, heq⟩
    have hmoved : (loadBytes s.tables x body).2.1.moved ≤ (loadBytes s.tables x body).2.1.expected := by omega
    dsimp only
    generalize loadBytes s.tables x body = p at htaken hheld hmoved ⊢
    have hreply : Replying { s with tables := p.1, link := { s.link with exchange := some p.2.1 } } p.2.1 :=
      ⟨rfl, hmoved, h7, h.carried_eq_zero hns⟩
    split
    · exact hreply.linkLaw _ _ _
    · exact hreply.linkLaw _ _ _
    · split
      · exact hreply.linkLaw _ _ _
      next hmore =>
        refine (linkLaw_iff _).mpr ⟨iff_of_false nofun fun h => hni h.1, h2, h3, h4, h5, fun y hy => ?_, h7, fun hc => ?_⟩
        · cases hy
          refine ⟨hmoved, fun _ => ⟨Nat.lt_of_not_le hmore, hheld⟩, fun hss => absurd hss hns, fun f hf => ?_⟩
          exact absurd (h3.mp (by rw [hf]; nofun)) hns
        · exact absurd (h.carried_eq_zero hns) hc

theorem linkLaw_goodData {s : State} (h : LinkLaw s) (tag : Byte) (body : List Byte) : LinkLaw (goodData tag body s) := by
  unfold goodData
  split
  next hs hx =>
    split
    · exact linkLaw_consumeData h hs body
    · exact (h.replying hx (by rw [hs]; nofun)).linkLaw _ _ _
  · exact h

theorem linkLaw_goodFrame {s : State} (h : LinkLaw s) (kind tag : Byte) (body : List Byte) : LinkLaw (goodFrame kind tag body s) := by
  unfold goodFrame
  split
  · exact linkLaw_goodRequest h tag body fun hr => linkLaw_takeRequest h hr tag body
  · split
    · exact linkLaw_goodData h tag body
    · exact h

theorem linkLaw_frameEnds {s : State} (h : LinkLaw s) (kind tag : Byte) (body : List Byte) : LinkLaw (frameEnds kind tag body s) := by
  unfold frameEnds
  split
  · exact linkLaw_goodFrame (linkLaw_dropPartial h) kind tag body
  · exact linkLaw_frameDamaged (linkLaw_dropPartial h)

/-! ### Characters -/

theorem linkLaw_withPartial {s : State} (h : LinkLaw s) {p : Option (List Byte)}
    (hp : PartialHeld { s.link with partialFrame := p }) : LinkLaw { s with link := { s.link with partialFrame := p } } := by
  obtain ⟨h1, h2, h3, h4, h5, h6, -, h8⟩ := (linkLaw_iff s).mp h
  exact (linkLaw_iff _).mpr ⟨h1, h2, h3, h4, h5, fun x hx => let ⟨a, b, c, d⟩ := h6 x hx; ⟨a, b, c, d⟩, hp, h8⟩

theorem linkLaw_judgeFrame {s : State} (h : LinkLaw s) (bs : List Byte) : LinkLaw (judgeFrame bs s) := by
  unfold judgeFrame
  split
  · dsimp only
    split
    · split
      · exact linkLaw_goodFrame h _ _ _
      · exact linkLaw_frameDamaged h
    · exact h
  · exact h

/-- A partial frame grows by a byte while its length byte lets it (R169). -/
theorem linkLaw_receiveByte {s : State} (h : LinkLaw s) (b : Byte) : LinkLaw (receiveByte s b) := by
  obtain ⟨-, -, -, -, -, -, hpart, -⟩ := (linkLaw_iff s).mp h
  unfold receiveByte
  split
  · split
    · exact linkLaw_withPartial h fun p hp len hlen => by cases hp; cases hlen
    · exact h
  next bs hbs =>
    dsimp only
    have hget : ∀ len, (bs ++ [b])[2]? = some len → ((bs ++ [b]).drop 2).head? = some len := fun len hlen => by
      rw [List.head?_drop]; exact hlen
    split
    next hdrop =>
      refine linkLaw_withPartial h fun p hp len hlen => ?_
      cases hp
      have hhead := hget len hlen
      rw [hdrop] at hhead
      cases hhead
    next len rest hdrop =>
      split
      · exact linkLaw_frameDamaged (linkLaw_dropPartial h)
      next h64 =>
        split
        · exact linkLaw_judgeFrame (linkLaw_dropPartial h) _
        next hmore =>
          refine linkLaw_withPartial h fun p hp len' hlen => ?_
          cases hp
          have heq := hget len' hlen
          rw [hdrop] at heq
          cases heq
          refine ⟨Nat.le_of_not_lt h64, ?_⟩
          have hdl := congrArg List.length hdrop
          rw [List.length_drop, List.length_append, List.length_singleton, List.length_cons] at hdl
          rw [List.length_append, List.length_singleton]
          by_cases h2 : 2 < bs.length
          · have hold := hpart bs hbs len (by rwa [List.getElem?_append_left h2] at hlen)
            omega
          · omega

theorem linkLaw_receiveFramingError {s : State} (h : LinkLaw s) : LinkLaw (receiveFramingError s) := by
  unfold receiveFramingError
  split
  · exact linkLaw_frameDamaged (linkLaw_dropPartial h)
  · exact h

theorem linkLaw_receiveLinkCharacters (cs : List LinkCharacter) {s : State} (h : LinkLaw s) :
    LinkLaw (cs.foldl receiveLinkCharacter s) := by
  induction cs generalizing s with
  | nil => exact h
  | cons c cs ih =>
    refine ih ?_
    unfold receiveLinkCharacter
    split
    · exact linkLaw_receiveFramingError h
    · exact linkLaw_receiveByte h _

/-! ### Transmissions -/

/-- A transmitted frame's bytes have moved, its notices have left the queue, and the data phase goes on or ends. -/
theorem linkLaw_dataFrameTransmitted {s t : State} (h : LinkLaw s) (he : execDataFrameTransmitted s = .next t) : LinkLaw t := by
  unfold execDataFrameTransmitted at he
  split at he
  next f x hf hx =>
    cases he
    obtain ⟨-, h2, h3, -, h5, h6, h7, -⟩ := (linkLaw_iff s).mp h
    have hs : s.link.state = .sending := h3.mp (by rw [hf]; nofun)
    obtain ⟨-, -, hsource, hframe⟩ := h6 x hx
    obtain ⟨-, hfits⟩ := hframe f hf
    obtain ⟨src, hsrc⟩ := Option.ne_none_iff_exists'.mp (hsource hs)
    have hres : s.link.result = none := Classical.byContradiction fun hne => nomatch hs.symm.trans (h2 hne)
    have hreply : Replying (frameSent f x s) { x with moved := x.moved + f.body.length } := ⟨rfl, hfits, h7, rfl⟩
    split
    · exact linkLaw_endSending hreply _
    · exact linkLaw_buildNext hreply hsrc hres (Bool.eq_false_iff.mpr fun hr => h5 hr hres)
  · cases he; exact h

theorem linkLaw_resetAll (ts : Tables) (rate : LinkRate) (s : State) : LinkLaw (resetAll ts rate s) :=
  (linkLaw_iff _).mpr ⟨iff_of_true rfl ⟨rfl, rfl⟩, fun h => absurd rfl h, iff_of_false (fun h => h rfl) nofun, fun h => absurd rfl h,
    nofun, nofun, nofun, fun h => absurd rfl h⟩

/-- An exchange whose result has been transmitted closes; the part can take the request that waited. -/
theorem linkLaw_closeExchange {s : State} (h : LinkLaw s) (hr : s.link.result ≠ none) (hn : s.link.restartPending = false) :
    LinkLaw (closeExchange s) ∧ Ready (closeExchange s) := by
  obtain ⟨-, h2, h3, -, -, -, h7, -⟩ := (linkLaw_iff s).mp h
  have hidle := h2 hr
  have hns : s.link.state ≠ .sending := by rw [hidle]; nofun
  refine ⟨(linkLaw_iff _).mpr ⟨iff_of_true rfl ⟨hidle, rfl⟩, fun h => absurd rfl h, h3, fun h => absurd rfl h,
    fun ht => (nomatch hn.symm.trans ht), nofun, h7, fun hc => absurd (h.carried_eq_zero hns) hc⟩, hidle, rfl⟩

theorem linkLaw_resultFrameTransmitted {s t : State} (h : LinkLaw s) (he : execResultFrameTransmitted s = .next t) : LinkLaw t := by
  unfold execResultFrameTransmitted at he
  split at he
  · cases he; exact h
  next hres =>
    split at he
    · cases he; exact linkLaw_resetAll _ _ s
    next hn =>
      obtain ⟨hlaw, hready⟩ := linkLaw_closeExchange h (by rw [hres]; nofun) (Bool.eq_false_iff.mpr hn)
      split at he
      · cases he; exact linkLaw_takeRequest hlaw hready _ _
      · cases he; exact hlaw

/-! ### Events that leave the link alone -/

theorem apart_joinDueQueue (z : ZoneId) (r : Option Zone) (s : State) : Apart s (joinDueQueue z (s.setZone z r)) :=
  .of (joinDueQueue_cycleOnly z _).link fun _ h p => h.joinDueQueue z _ (h.congr p rfl)

theorem apart_completeEvaluation (c : Current) (s : State) : Apart s (completeEvaluation c s) :=
  .of (completeEvaluation_cycleOnly c s).link fun _ h => h.completeEvaluation c s

theorem apart_endHeat (i : SlotId) (r : Slot) (s : State) : Apart s (endHeat i r s) :=
  .of (endHeat_probesOnly i r s).link fun _ h => h.endHeat i r s

theorem apart_complete (l : LineId) (ln : Line) (x : Txn) (p : Phase) (rep : Report) (s : State) :
    Apart s (complete l ln x p rep s) :=
  .of (complete_linesOnly l ln x p rep s).link fun _ h => h.complete l ln x p rep s

theorem apart_enterFault (l : LineId) (ln : Line) (s : State) : Apart s (enterFault l ln s) :=
  .of (enterFault_linesOnly l ln s).link fun _ h => h.enterFault l ln s

theorem apart_setLine (l : LineId) (ln : Line) (s : State) : Apart s (s.setLine l ln) := .same rfl rfl

theorem apart_receiveCharacter (l : LineId) (ln : Line) (x : Txn) (bits : BitVec 9) (s : State) :
    Apart s (receiveCharacter l ln x bits s) := by
  unfold receiveCharacter
  split
  · exact apart_setLine _ _ _
  · exact apart_complete _ _ _ _ _ _
  · exact apart_complete _ _ _ _ _ _

theorem apart_emit_setLine (b : NoticeBody) (l : LineId) (ln : Line) (s : State) : Apart s (emit b (s.setLine l ln)) :=
  .of (emit_noticesOnly b _).link fun _ h p => h.emit b _ (h.congr p rfl)

section
variable {s t : State}

theorem apart_zoneTimerExpiry {z : ZoneId} (h : execZoneTimerExpiry z s = .next t) : Apart s t := by
  unfold execZoneTimerExpiry at h
  split at h
  · split at h
    · split at h
      · cases h; exact .refl s
      · cases h; exact apart_joinDueQueue _ _ s
    · cases h; exact .refl s
  · cases h; exact .refl s

theorem apart_evaluationCompletion (h : execEvaluationCompletion s = .next t) : Apart s t := by
  unfold execEvaluationCompletion at h
  split at h
  · cases h; exact apart_completeEvaluation _ s
  · cases h; exact .refl s

theorem apart_slotDue {i : SlotId} (h : execSlotDue i s = .next t) : Apart s t := by
  unfold execSlotDue at h
  split at h
  · split at h
    · cases h; exact apart_missIfFaulted _ _ s
    · cases h; exact .refl s
  · cases h; exact .refl s

theorem apart_heatEnd {i : SlotId} (h : execHeatEnd i s = .next t) : Apart s t := by
  unfold execHeatEnd at h
  split at h
  · split at h
    · split at h
      · cases h; exact apart_endHeat _ _ s
      · cases h; exact .refl s
    · cases h; exact .refl s
  · cases h; exact .refl s

theorem apart_pollStart {l : LineId} (h : execPollStart l s = .next t) : Apart s t := by
  unfold execPollStart at h
  dsimp only at h
  split at h
  · split at h
    · split at h
      · cases h; exact apart_setLine _ _ s
      · cases h; exact .refl s
    · cases h; exact .refl s
  · cases h; exact .refl s

theorem apart_pollSent {l : LineId} (h : execPollSent l s = .next t) : Apart s t := by
  unfold execPollSent at h
  dsimp only at h
  split at h
  · split at h
    · cases h; exact apart_setLine _ _ s
    · cases h; exact .refl s
  all_goals cases h; exact .refl s

theorem apart_lineLeavesIdleLevel {l : LineId} (h : execLineLeavesIdleLevel l s = .next t) : Apart s t := by
  unfold execLineLeavesIdleLevel at h
  split at h
  · cases h; exact .refl s
  · cases h; exact apart_setLine _ _ s

theorem apart_lineReturnsToIdleLevel {l : LineId} (h : execLineReturnsToIdleLevel l s = .next t) : Apart s t := by
  unfold execLineReturnsToIdleLevel at h
  dsimp only at h
  split at h
  · split at h
    · split at h
      · cases h; exact apart_complete _ _ _ _ _ s
      · cases h; exact apart_setLine _ _ s
    all_goals cases h; exact apart_setLine _ _ s
  · cases h; exact .refl s

theorem apart_replyTimeout {l : LineId} (h : execReplyTimeout l s = .next t) : Apart s t := by
  unfold execReplyTimeout at h
  split at h
  · split at h
    · cases h; exact apart_complete _ _ _ _ _ s
    · cases h; exact .refl s
  all_goals cases h; exact .refl s

theorem apart_replyCharacter {l : LineId} {bits : BitVec 9} (h : execReplyCharacter l bits s = .next t) : Apart s t := by
  unfold execReplyCharacter at h
  split at h
  · split at h
    · cases h; exact apart_receiveCharacter _ _ _ _ s
    · cases h; exact .refl s
  all_goals cases h; exact .refl s

theorem apart_replyFramingError {l : LineId} (h : execReplyFramingError l s = .next t) : Apart s t := by
  unfold execReplyFramingError at h
  split at h
  · split at h
    · cases h; exact apart_setLine _ _ s
    · cases h; exact .refl s
  all_goals cases h; exact .refl s

theorem apart_replyGapTimeout {l : LineId} (h : execReplyGapTimeout l s = .next t) : Apart s t := by
  unfold execReplyGapTimeout at h
  split at h
  · split at h
    · cases h; exact apart_complete _ _ _ _ _ s
    · cases h; exact .refl s
  all_goals cases h; exact .refl s

theorem apart_discardingEnd {l : LineId} (h : execDiscardingEnd l s = .next t) : Apart s t := by
  unfold execDiscardingEnd at h
  split at h
  · split at h
    · cases h; exact apart_setLine _ _ s
    · cases h; exact .refl s
  all_goals cases h; exact .refl s

theorem apart_turnaroundEnd {l : LineId} (h : execTurnaroundEnd l s = .next t) : Apart s t := by
  unfold execTurnaroundEnd at h
  split at h
  · split at h
    · cases h; exact apart_setLine _ _ s
    · cases h; exact .refl s
  all_goals cases h; exact .refl s

theorem apart_lineFaultEntry {l : LineId} (h : execLineFaultEntry l s = .next t) : Apart s t := by
  unfold execLineFaultEntry at h
  split at h
  · split at h
    · cases h; exact apart_enterFault _ _ s
    · cases h; exact .refl s
  · split at h
    · cases h; exact apart_enterFault _ _ s
    · cases h; exact .refl s
  all_goals cases h; exact .refl s

theorem apart_lineRecovery {l : LineId} (h : execLineRecovery l s = .next t) : Apart s t := by
  unfold execLineRecovery at h
  dsimp only at h
  split at h
  · cases h; exact apart_emit_setLine _ _ _ s
  · cases h; exact .refl s

end

/-! ### Every command -/

theorem exec_keeps_linkLaw (c : Instr) (s t : State) (h : LinkLaw s) (he : exec c s = .next t) : LinkLaw t := by
  have hframe : ∀ (tag : Byte) (body : List Byte) (take : State → State), (∀ u, LinkLaw u → Ready u → LinkLaw (take u)) →
      (Host.Outcome.next (requestFrame tag body take s) : Host.Outcome State Fault Refusal) = .next t → LinkLaw t := by
    intro tag body take ht hn
    cases hn
    exact linkLaw_requestFrame h tag body ht
  have hop : ∀ (op : Op) (tag : Byte) (e : Word16) (params body : List Byte),
      (Host.Outcome.next (requestFrame tag body (takeOp op tag e params) s) : Host.Outcome State Fault Refusal) = .next t → LinkLaw t :=
    fun op tag e params body => hframe tag body _ fun _ hu hr => linkLaw_takeOp hu hr tag e params op
  have hany := fun (tag : Byte) (body : List Byte) => hframe tag body (takeRequest tag body) fun _ hu hr => linkLaw_takeRequest hu hr tag body
  cases c with
  | identify tag e params => exact hop .identify tag e params _ he
  | readStatus tag e params => exact hop .readStatus tag e params _ he
  | paramSet tag e params => exact hop .paramSet tag e params _ he
  | paramGet tag e params => exact hop .paramGet tag e params _ he
  | restart tag e params => exact hop .restart tag e params _ he
  | lineSetup tag e params => exact hop .lineSetup tag e params _ he
  | lineStop tag e params => exact hop .lineStop tag e params _ he
  | probeEnrol tag e params => exact hop .probeEnrol tag e params _ he
  | probeWithdraw tag e params => exact hop .probeWithdraw tag e params _ he
  | probeHold tag e params => exact hop .probeHold tag e params _ he
  | probeRelease tag e params => exact hop .probeRelease tag e params _ he
  | readProbes tag e params => exact hop .readProbes tag e params _ he
  | heatProbe tag e params => exact hop .heatProbe tag e params _ he
  | zoneDefine tag e params => exact hop .zoneDefine tag e params _ he
  | zoneClose tag e params => exact hop .zoneClose tag e params _ he
  | readZones tag e params => exact hop .readZones tag e params _ he
  | tableBegin tag e params => exact hop .tableBegin tag e params _ he
  | tableLoad tag e params => exact hop .tableLoad tag e params _ he
  | tableCommit tag e params => exact hop .tableCommit tag e params _ he
  | tableSelect tag e params => exact hop .tableSelect tag e params _ he
  | tableRead tag e params => exact hop .tableRead tag e params _ he
  | fetchNotices tag e params => exact hop .fetchNotices tag e params _ he
  | routeSet tag e params => exact hop .routeSet tag e params _ he
  | clearAlert tag e params => exact hop .clearAlert tag e params _ he
  | badOpRequest tag body => exact hany tag body he
  | requestAbandonsReceiving tag body => exact hany tag body he
  | requestAbandonsSending tag body => exact hany tag body he
  | waitingRequest tag body => exact hany tag body he
  | dataFrame tag body => cases he; exact linkLaw_frameEnds h dataKind tag body
  | frameDiscarded kind tag body => cases he; exact linkLaw_frameEnds h kind tag body
  | damagedFrame d =>
    cases d with
    | badCrc kind tag body crc =>
      cases he
      split
      · exact linkLaw_frameEnds h kind tag body
      · exact linkLaw_frameDamaged (linkLaw_dropPartial h)
    | oversizeLength len =>
      cases he
      split
      · exact linkLaw_frameDamaged (linkLaw_dropPartial h)
      · exact h
    | framingError => cases he; exact linkLaw_receiveFramingError h
  | frameGapTimeout => cases he; exact linkLaw_dropPartial h
  | silenceTimeout =>
    change execSilenceTimeout s = _ at he
    unfold execSilenceTimeout at he
    split at he
    next hs => cases he; obtain ⟨x, hx⟩ := h.replying_of_receiving hs; exact hx.linkLaw _ _ _
    all_goals cases he; exact h
  | dataFrameTransmitted => exact linkLaw_dataFrameTransmitted h he
  | resultFrameTransmitted => exact linkLaw_resultFrameTransmitted h he
  | leadByte cs => cases he; exact linkLaw_receiveLinkCharacters cs h
  | hardwareReset => cases he; exact linkLaw_resetAll _ _ s
  | timeBaseTick => cases he; exact linkLaw_apart h (.same rfl rfl)
  | zoneTimerExpiry => exact linkLaw_apart h (apart_zoneTimerExpiry he)
  | evaluationCompletion => exact linkLaw_apart h (apart_evaluationCompletion he)
  | slotDue => exact linkLaw_apart h (apart_slotDue he)
  | heatEnd => exact linkLaw_apart h (apart_heatEnd he)
  | pollStart => exact linkLaw_apart h (apart_pollStart he)
  | pollSent => exact linkLaw_apart h (apart_pollSent he)
  | lineLeavesIdleLevel => exact linkLaw_apart h (apart_lineLeavesIdleLevel he)
  | lineReturnsToIdleLevel => exact linkLaw_apart h (apart_lineReturnsToIdleLevel he)
  | replyTimeout => exact linkLaw_apart h (apart_replyTimeout he)
  | replyCharacter => exact linkLaw_apart h (apart_replyCharacter he)
  | replyFramingError => exact linkLaw_apart h (apart_replyFramingError he)
  | replyGapTimeout => exact linkLaw_apart h (apart_replyGapTimeout he)
  | replyComplete => exact linkLaw_apart h (apart_replyCharacter he)
  | discardingEnd => exact linkLaw_apart h (apart_discardingEnd he)
  | turnaroundEnd => exact linkLaw_apart h (apart_turnaroundEnd he)
  | lineFaultEntry => exact linkLaw_apart h (apart_lineFaultEntry he)
  | lineRecovery => exact linkLaw_apart h (apart_lineRecovery he)

/-- Settles O60: an exchange opens only in IDLE with no result in transmission, its frames are filled within what is left of E, and
every other event leaves the link alone. -/
theorem stepKeepsLinkLaw : Obligations.StepKeepsLinkLaw := by
  intro s t h hstep
  unfold step at hstep
  split at hstep
  · cases hstep; exact h
  next c rest _ => exact exec_keeps_linkLaw c { s with pending := rest } t (linkLaw_apart h (.same rfl rfl)) hstep

end Sys2Proof.Machine
end

section
/-! The taking of a request by an IDLE part (R171, R172): what a command of a request comes to, and the answers at once. -/

namespace Sys2Proof.Machine

/-! ### A good REQUEST frame -/

/-- Every request is the good REQUEST frame of its body, and is taken as its operation says. -/
theorem exec_requestOf (op : Op) (tag : Byte) (e : Word16) (params : List Byte) (s : State) :
    exec (requestOf op tag e params) s = .next (requestFrame tag (requestBody op e params) (takeOp op tag e params) s) := by
  cases op <;> rfl

theorem length_requestBody (op : Op) (e : Word16) (params : List Byte) : (requestBody op e params).length = params.length + 3 := rfl

/-- A good REQUEST frame that ends at an IDLE part is taken at once (R171). -/
theorem requestFrame_ready {s : State} (hr : Ready s) (tag : Byte) {body : List Byte} (hb : body.length ≤ 64) (take : State → State) :
    requestFrame tag body take s = take (hunting s) := by
  obtain ⟨hidle, hres⟩ := hr
  unfold requestFrame
  rw [if_pos hb]
  unfold goodRequest
  show (match s.link.result, s.link.state with | some _, _ => _ | none, .idle => _ | none, .receiving => _ | none, .sending => _) = _
  rw [hres, hidle]
  rfl

theorem exec_request {s : State} (hr : Ready s) (op : Op) (tag : Byte) (e : Word16) {params : List Byte} (hp : params.length ≤ 61) :
    exec (requestOf op tag e params) s = .next (takeOp op tag e params (hunting s)) := by
  rw [exec_requestOf, requestFrame_ready hr tag (by rw [length_requestBody]; omega)]

/-! ### The exchange of a request that is taken -/

/-- The link with a request's exchange just opened and no partial frame. -/
def openedLink (tag op : Byte) (e : Nat) (k : Link) : Link := { k with exchange := some (exchangeOf tag op e), partialFrame := none }

/-- The part with a request's exchange just opened (R172). -/
def opened (tag op : Byte) (e : Nat) (s : State) : State := { s with link := openedLink tag op e s.link }

section
variable (tag op : Byte) (e : Nat) (s : State)
@[simp] theorem opened_timeBase : (opened tag op e s).timeBase = s.timeBase := rfl
@[simp] theorem opened_params : (opened tag op e s).params = s.params := rfl
@[simp] theorem opened_tables : (opened tag op e s).tables = s.tables := rfl
@[simp] theorem opened_current : (opened tag op e s).current = s.current := rfl
@[simp] theorem opened_slot (i : SlotId) : (opened tag op e s).slot i = s.slot i := rfl
@[simp] theorem opened_zone (z : ZoneId) : (opened tag op e s).zone z = s.zone z := rfl
@[simp] theorem opened_line (l : LineId) : (opened tag op e s).line l = s.line l := rfl
@[simp] theorem opened_setSlot (i : SlotId) (r : Option Slot) :
    (opened tag op e s).setSlot i r = opened tag op e (s.setSlot i r) := rfl
@[simp] theorem opened_setLine (l : LineId) (r : Line) : (opened tag op e s).setLine l r = opened tag op e (s.setLine l r) := rfl
end

theorem openExchange_hunting (tag op : Byte) (e : Nat) (s : State) : openExchange tag op e (hunting s) = opened tag op e s := rfl

/-- A request of direction NONE with an E of 0 comes to its block's own checks. -/
theorem takeNone_zero (op : Op) (tag : Byte) (act : State → State) (s : State) :
    takeNone op tag 0 act (hunting s) = act (opened tag op.code 0 s) := rfl

/-- A request with a data phase and an E of at most 4096 comes to its block's own checks. -/
theorem takeData_of_le {e : Word16} (he : e.toNat ≤ 4096) (op : Op) (tag : Byte) (act : State → State) (s : State) :
    takeData op tag e act (hunting s) = act (opened tag op.code e.toNat s) := if_pos he

/-! ### Answers at once -/

theorem sendResult_opened (tag op : Byte) (e : Nat) (o : Outcome) (r : Reason) (fields : List Byte) (s : State) :
    sendResult o r fields (opened tag op e s) = answered tag op e o r fields s := rfl

theorem refuse_opened (tag op : Byte) (e : Nat) (r : Reason) (fields : List Byte) (s : State) :
    refuse r (opened tag op e s) fields = answered tag op e .refused r fields s := rfl

theorem okResult_opened (tag op : Byte) (e : Nat) (fields : List Byte) (s : State) :
    okResult (opened tag op e s) fields = answered tag op e .ok .none fields s := rfl

/-- A change that is apart from the link is the same change behind the open exchange. -/
theorem LinkApart.opened {f : State → State} (hf : LinkApart f) (tag op : Byte) (e : Nat) (s : State)
    (hl : (f s).link = s.link) : f (opened tag op e s) = Machine.opened tag op e (f s) := by
  unfold Machine.opened
  rw [hf, hl]

/-! ### Requests that are refused for their form -/

theorem ready_hunting {s : State} (h : Ready s) : Ready (hunting s) := h

/-- An E that is more than the operation's direction allows is refused before anything else is looked at. -/
theorem takeOp_tooLong {op : Op} {e : Word16} (he : largestLength op < e.toNat) (tag : Byte) (params : List Byte) (s : State) :
    takeOp op tag e params s = refuse .length (openExchange tag op.code e.toNat s) := by
  cases op
  case identify | readStatus | readProbes | readZones | tableRead | fetchNotices | tableLoad => exact if_neg (Nat.not_le_of_lt he)
  all_goals exact if_neg (by rintro rfl; exact Nat.lt_irrefl 0 he)

theorem exec_tooLong {s : State} (hr : Ready s) {op : Op} (tag : Byte) {e : Word16} {params : List Byte} (hp : params.length ≤ 61)
    (he : largestLength op < e.toNat) : exec (requestOf op tag e params) s = .next (answered tag op.code e.toNat .refused .length [] s) := by
  rw [exec_request hr op tag e hp, takeOp_tooLong he]
  rfl

end Sys2Proof.Machine
end

section
/-! Requests of the parameter store, the probe lines and the alert router at an IDLE part (R126, R127, R165, R166, R178). -/

namespace Sys2Proof.Machine

/-! ### Numbers in the bytes of a request -/

theorem bytes16_unsigned16 (lo hi : Byte) : bytes16 (unsigned16 lo hi) = [lo, hi] := by
  have hlo := lo.isLt
  have hhi := hi.isLt
  unfold bytes16 unsigned16
  congr 1
  · exact BitVec.eq_of_toNat_eq (by rw [toNat_byte]; omega)
  · congr 1
    exact BitVec.eq_of_toNat_eq (by rw [toNat_byte]; omega)

theorem lineOfByte_eq_none {b : Byte} : lineOfByte b = none ↔ 3 < b.toNat := by
  unfold lineOfByte
  split
  · exact iff_of_false nofun (by omega)
  · exact iff_of_true rfl (by omega)

theorem slotOfByte_eq_none {b : Byte} : slotOfByte b = none ↔ 95 < b.toNat := by
  unfold slotOfByte
  split
  · exact iff_of_false nofun (by omega)
  · exact iff_of_true rfl (by omega)

theorem zoneOfByte_eq_none {b : Byte} : zoneOfByte b = none ↔ 23 < b.toNat := by
  unfold zoneOfByte
  split
  · exact iff_of_false nofun (by omega)
  · exact iff_of_true rfl (by omega)

theorem bankOfCode_eq_none {b : Byte} : bankOfCode b = none ↔ 2 < b.toNat := by
  unfold bankOfCode
  split
  all_goals simp_all
  omega

/-! ### The parameter store -/

/-- A value that its range and its partner allow is written. -/
theorem Params.write_of_admits {p : Params} {q : Param} {v : Nat} (h : q.admits p v) : ∃ ps, p.write q v = some ps := by
  obtain ⟨hlo, hhi, hpair⟩ := h
  cases q with
  | policy =>
    have hv : v ≤ 1 := hhi
    obtain rfl | rfl : v = 0 ∨ v = 1 := by omega
    · exact ⟨_, rfl⟩
    · exact ⟨_, rfl⟩
  | pollFast | pollSettled | evalFast | evalSettled => exact ⟨_, if_pos (by rw [Bool.and_eq_true]; exact ⟨inRange_iff.mpr ⟨hlo, hhi⟩, decide_eq_true hpair⟩)⟩
  | _ => exact ⟨_, if_pos (inRange_iff.mpr ⟨hlo, hhi⟩)⟩

theorem takeParamSet_written {tag p lo hi : Byte} {s : State} {q : Param} {ps : Params} (hq : paramOfCode p = some q)
    (hw : s.params.write q (unsigned16 lo hi) = some ps) :
    takeParamSet tag 0 [p, lo, hi] (hunting s) = answered tag 0x03 0 .ok .none [p, lo, hi] { s with params := ps } := by
  have hbind : ((paramOfCode p).bind fun q => (opened tag Op.paramSet.code 0 s).params.write q (unsigned16 lo hi)) = some ps := by
    rw [hq]; exact hw
  unfold takeParamSet
  rw [takeNone_zero]
  dsimp only
  rw [hbind]
  show answered tag 0x03 0 .ok .none (p :: bytes16 (unsigned16 lo hi)) { s with params := ps } = _
  rw [bytes16_unsigned16]

theorem takeParamSet_refused {tag p lo hi : Byte} {s : State}
    (hw : (paramOfCode p).bind (fun q => s.params.write q (unsigned16 lo hi)) = none) :
    takeParamSet tag 0 [p, lo, hi] (hunting s) = answered tag 0x03 0 .refused .badParam [] s := by
  have hbind : ((paramOfCode p).bind fun q => (opened tag Op.paramSet.code 0 s).params.write q (unsigned16 lo hi)) = none := hw
  unfold takeParamSet
  rw [takeNone_zero]
  dsimp only
  rw [hbind]
  rfl

/-- Settles O15: a write is taken exactly when the parameter admits the value, and the answers carry the value in force. -/
theorem parametersAreSetAndRead : Obligations.ParametersAreSetAndRead := by
  intro tag p lo hi s hr
  have hset : exec (.paramSet tag 0 [p, lo, hi]) s = .next (takeParamSet tag 0 [p, lo, hi] (hunting s)) :=
    exec_request hr .paramSet tag 0 (by simp)
  have hget : exec (.paramGet tag 0 [p]) s = .next (takeParamGet tag 0 [p] (hunting s)) := exec_request hr .paramGet tag 0 (by simp)
  rw [hset, hget]
  unfold takeParamGet
  rw [takeNone_zero]
  dsimp only
  refine ⟨fun q hq => ⟨fun ha => ?_, fun ha => ?_, ?_⟩, fun hq => ⟨?_, ?_⟩⟩
  · obtain ⟨ps, hps⟩ := Params.write_of_admits ha
    obtain ⟨-, hv, hother⟩ := Params.write_spec hps
    exact ⟨ps, congrArg _ (takeParamSet_written hq hps), hv, hother⟩
  · refine congrArg _ (takeParamSet_refused ?_)
    rw [hq]
    refine Option.eq_none_iff_forall_ne_some.mpr fun ps hps => ha ?_
    exact (Params.write_spec hps).1
  · rw [hq]; rfl
  · exact congrArg _ (takeParamSet_refused (by rw [hq]; rfl))
  · rw [hq]; rfl

/-! ### The probe lines -/

/-- The setup that the bytes of a LINE_SETUP spell, field by field (R126). -/
theorem parseSetup_eq_some {rate order timeout lo hi : Byte} {r : Rate} {o : BitOrder} (hr : rateOfCode rate = some r)
    (ho : orderOfCode order = some o) (ht : 5 ≤ timeout.toNat ∧ timeout.toNat ≤ 250)
    (hf : 10 ≤ unsigned16 lo hi ∧ unsigned16 lo hi ≤ 1000) :
    parseSetup rate order timeout lo hi = some (r, o, timeout.toNat, unsigned16 lo hi) := by
  unfold parseSetup
  rw [hr, ho]
  exact if_pos (by rw [Bool.and_eq_true]; exact ⟨inRange_iff.mpr ht, inRange_iff.mpr hf⟩)

theorem parseSetup_eq_none {rate order timeout lo hi : Byte} (h : rateOfCode rate = none ∨ orderOfCode order = none
      ∨ timeout.toNat < 5 ∨ 250 < timeout.toNat ∨ unsigned16 lo hi < 10 ∨ 1000 < unsigned16 lo hi) :
    parseSetup rate order timeout lo hi = none := by
  unfold parseSetup
  split
  next hr ho =>
    refine if_neg fun hin => ?_
    rw [Bool.and_eq_true, inRange_iff, inRange_iff] at hin
    rw [hr, ho] at h
    obtain h | h | h := h
    · cases h
    · cases h
    · omega
  · rfl

/-- Settles O16: the byte fields are parsed in their ranges, and both requests write one line. -/
theorem linesAreSetUpAndStopped : Obligations.LinesAreSetUpAndStopped := by
  constructor
  · intro tag n rate order timeout faultLo faultHi s hr
    have hrun : exec (.lineSetup tag 0 [n, rate, order, timeout, faultLo, faultHi]) s
        = .next (takeLineSetup tag 0 [n, rate, order, timeout, faultLo, faultHi] (hunting s)) := exec_request hr .lineSetup tag 0 (by simp)
    rw [hrun]
    unfold takeLineSetup
    rw [takeNone_zero]
    dsimp only
    refine ⟨fun l r o hl hrate horder h1 h2 h3 h4 => ?_, fun h => ?_⟩
    · rw [hl, parseSetup_eq_some hrate horder ⟨h1, h2⟩ ⟨h3, h4⟩]
      dsimp only
      refine ⟨fun hoff => ?_, fun hoff => ?_⟩
      · rw [opened_line, if_pos hoff]; rfl
      · rw [opened_line, if_neg hoff]; rfl
    · obtain hl | h := h
      · rw [hl]; rfl
      · rw [parseSetup_eq_none h]
        cases lineOfByte n <;> rfl
  · intro tag n s hr
    have hrun : exec (.lineStop tag 0 [n]) s = .next (takeLineStop tag 0 [n] (hunting s)) := exec_request hr .lineStop tag 0 (by simp)
    rw [hrun]
    unfold takeLineStop
    rw [takeNone_zero]
    dsimp only
    refine ⟨fun l hl => ?_, fun h => ?_⟩
    · rw [hl]
      dsimp only
      refine ⟨fun hoff => ?_, fun hoff => ?_⟩
      · rw [opened_line, if_neg hoff]; rfl
      · rw [opened_line, if_pos hoff]; rfl
    · rw [lineOfByte_eq_none.mpr h]; rfl

/-! ### The alert router -/

theorem onAlertLine_zero (act : AlertLine → AlertLine) (s : State) : onAlertLine 0 act s = some { s with alertA := act s.alertA } := rfl

theorem onAlertLine_one (act : AlertLine → AlertLine) (s : State) : onAlertLine 1 act s = some { s with alertB := act s.alertB } := rfl

theorem onAlertLine_eq_none {n : Byte} (h : 1 < n.toNat) (act : AlertLine → AlertLine) (s : State) : onAlertLine n act s = none := by
  unfold onAlertLine
  split
  · omega
  · omega
  · rfl

/-- The latch that a CLEAR_ALERT leaves (R166). -/
theorem clearLatch_eq (a : AlertLine) : (if a.mode = .latched then { a with latch := false } else a)
    = { a with latch := if a.mode = .latched then false else a.latch } := by
  split <;> rfl

/-- Settles O29: each request writes the one alert line that its first byte names. -/
theorem alertLinesAreRoutedAndCleared : Obligations.AlertLinesAreRoutedAndCleared := by
  intro tag n mode set s hr
  have hroute : exec (.routeSet tag 0 [n, mode, set]) s = .next (takeRouteSet tag 0 [n, mode, set] (hunting s)) :=
    exec_request hr .routeSet tag 0 (by simp)
  have hclear : exec (.clearAlert tag 0 [n]) s = .next (takeClearAlert tag 0 [n] (hunting s)) :=
    exec_request hr .clearAlert tag 0 (by simp)
  rw [hroute, hclear]
  unfold takeRouteSet takeClearAlert
  rw [takeNone_zero, takeNone_zero]
  dsimp only
  refine ⟨fun m hm hset => ?_, fun h => ?_, ?_, ?_, fun h => ?_⟩
  · rw [hm]
    dsimp only
    rw [if_pos hset]
    refine ⟨?_, ?_⟩
    · rintro rfl; rw [onAlertLine_zero]; rfl
    · rintro rfl; rw [onAlertLine_one]; rfl
  · split
    next m hm =>
      split
      next hset =>
        obtain h | h | h := h
        · rw [onAlertLine_eq_none h]; rfl
        · cases hm.symm.trans h
        · omega
      · rfl
    · rfl
  · rintro rfl
    rw [onAlertLine_zero, clearLatch_eq]
    rfl
  · rintro rfl
    rw [onAlertLine_one, clearLatch_eq]
    rfl
  · rw [onAlertLine_eq_none h]; rfl

end Sys2Proof.Machine
end

section
/-! Requests of the probe table at an IDLE part (R76 to R82, R119), and the miss that a slot of a line in FAULT is given (R138). -/

namespace Sys2Proof.Machine

/-! ### The miss of a faulted line -/

theorem onFaultLine_of_slot {s : State} {i : SlotId} {r : Slot} (hr : s.slot i = some r) :
    onFaultLine s i = true ↔ (s.line r.line).state = .fault := by
  unfold onFaultLine
  rw [hr]
  exact beq_iff_eq

/-- On a line that is not in FAULT no miss is given. -/
theorem missIfFaulted_unfaulted {s : State} {i : SlotId} {r : Slot} (hr : s.slot i = some r) (hf : (s.line r.line).state ≠ .fault) :
    missIfFaulted i s = s := by
  unfold missIfFaulted
  rw [hr]
  exact if_neg fun h => hf ((onFaultLine_of_slot hr).mp (Bool.and_eq_true_iff.mp h).2)

/-- A due schedulable slot of a line in FAULT is given its LINE_FAULT miss (R138). -/
theorem missIfFaulted_faulted {s : State} {i : SlotId} {r : Slot} (hr : s.slot i = some r) (hs : r.schedulable = true)
    (hd : r.due = true) (hf : (s.line r.line).state = .fault) :
    missIfFaulted i s = handOutcome i s.timeBase (.miss .lineFault) s := by
  unfold missIfFaulted
  rw [hr]
  exact if_pos (by rw [Bool.and_eq_true, Bool.and_eq_true]; exact ⟨⟨hs, hd⟩, (onFaultLine_of_slot hr).mpr hf⟩)

theorem missIfFaulted_opened (i : SlotId) (tag op : Byte) (e : Nat) (s : State) :
    missIfFaulted i (opened tag op e s) = opened tag op e (missIfFaulted i s) :=
  LinkApart.opened (f := missIfFaulted i) (fun s k => missIfFaulted_setLink i s k) tag op e s (missIfFaulted_probesOnly i s).link

/-- The answer OK of a request that has written a slot which becomes due at once. -/
theorem okResult_missIfFaulted (i : SlotId) (tag op : Byte) (e : Nat) (fields : List Byte) (s : State) :
    okResult (missIfFaulted i (opened tag op e s)) fields = answered tag op e .ok .none fields (missIfFaulted i s) := by
  rw [missIfFaulted_opened, okResult_opened]

/-! ### PROBE_HOLD, PROBE_RELEASE, HEAT_PROBE -/

theorem slotOfByte_le {n : Byte} {i : SlotId} (h : slotOfByte n = some i) : n.toNat ≤ 95 := by
  refine Nat.le_of_not_lt fun hlt => ?_
  rw [slotOfByte_eq_none.mpr hlt] at h
  cases h

/-- A release makes the slot PENDING, FAST and due (R82, R149). -/
theorem madePending_eq (r : Slot) (now : Time) :
    ({ r.madePending now with misses := 0 } : Slot) = { r with state := .pending, misses := 0, pace := .fast, nextDue := now, due := true } := by
  have hnow : liesAhead now now = false := by unfold liesAhead age; rw [BitVec.sub_self]; rfl
  unfold Slot.madePending Slot.withNextDue
  rw [hnow]
  rfl

theorem schedulable_of_state {r : Slot} (h : r.state = .pending ∨ r.state = .live ∨ r.state = .lost) : r.schedulable = true := by
  rw [schedulable_iff]
  obtain h | h | h := h <;> rw [h] <;> exact ⟨nofun, nofun⟩

/-- A slot that has just become PENDING and due is given its miss if its line is in FAULT, and left as it is if not (R138, R149). -/
theorem missIfFaulted_setSlot_pending {s : State} {i : SlotId} {r : Slot} (hs : r.state = .pending) (hd : r.due = true) :
    ((s.line r.line).state ≠ .fault → missIfFaulted i (s.setSlot i (some r)) = s.setSlot i (some r))
    ∧ ((s.line r.line).state = .fault →
        missIfFaulted i (s.setSlot i (some r)) = handOutcome i s.timeBase (.miss .lineFault) (s.setSlot i (some r))) :=
  ⟨fun hf => missIfFaulted_unfaulted (slot_setSlot_same _ _ _) hf,
    fun hf => missIfFaulted_faulted (slot_setSlot_same _ _ _) (schedulable_of_state (.inl hs)) hd hf⟩

/-- Settles O19: a hold and a release by the state of the slot. -/
theorem probesAreHeldAndReleased : Obligations.ProbesAreHeldAndReleased := by
  constructor
  · intro tag n s hr
    have hrun : exec (.probeHold tag 0 [n]) s = .next (takeProbeHold tag 0 [n] (hunting s)) := exec_request hr .probeHold tag 0 (by simp)
    rw [hrun]
    unfold takeProbeHold
    rw [takeNone_zero]
    dsimp only
    refine ⟨fun h => by rw [slotOfByte_eq_none.mpr h]; rfl, fun i hi => ?_⟩
    rw [hi]
    dsimp only
    rw [opened_slot]
    refine ⟨fun hv => by rw [hv]; rfl, fun r hslot => ?_⟩
    rw [hslot]
    dsimp only
    refine ⟨fun hs => by rw [if_pos hs]; rfl, fun hs => ?_, fun hs => ?_⟩
    · rw [if_neg (by rw [hs]; nofun), if_pos hs]; rfl
    · have hsched := (schedulable_iff r).mp (schedulable_of_state hs)
      rw [if_neg hsched.1, if_neg hsched.2]; rfl
  · intro tag n s hr
    have hrun : exec (.probeRelease tag 0 [n]) s = .next (takeProbeRelease tag 0 [n] (hunting s)) :=
      exec_request hr .probeRelease tag 0 (by simp)
    rw [hrun]
    unfold takeProbeRelease
    rw [takeNone_zero]
    dsimp only
    refine ⟨fun h => by rw [slotOfByte_eq_none.mpr h]; rfl, fun i hi => ?_⟩
    rw [hi]
    dsimp only
    rw [opened_slot]
    refine ⟨fun h => ?_, fun r u hslot hs hu => ?_⟩
    · cases hslot : s.slot i with
      | none => rfl
      | some r => dsimp only; rw [if_neg (h r hslot)]; rfl
    · rw [hslot]
      dsimp only
      rw [if_pos hs, opened_timeBase, madePending_eq, opened_setSlot, okResult_missIfFaulted, ← hu]
      obtain ⟨hkept, hmissed⟩ := missIfFaulted_setSlot_pending (s := s) (i := i)
        (r := { r with state := .pending, misses := 0, pace := .fast, nextDue := s.timeBase, due := true }) rfl rfl
      rw [← hu] at hkept hmissed
      exact ⟨fun hf => by rw [hkept hf]; rfl, fun hf => by rw [hmissed hf]; rfl⟩

/-- Settles O20: the checks of R119 in their order. -/
theorem heatProbeArmsSlot : Obligations.HeatProbeArmsSlot := by
  intro tag n s hr
  have hrun : exec (.heatProbe tag 0 [n]) s = .next (takeHeatProbe tag 0 [n] (hunting s)) := exec_request hr .heatProbe tag 0 (by simp)
  rw [hrun]
  unfold takeHeatProbe
  rw [takeNone_zero]
  dsimp only
  refine ⟨fun h => by rw [slotOfByte_eq_none.mpr h]; rfl, fun i hi => ?_⟩
  rw [hi]
  dsimp only
  rw [opened_slot]
  refine ⟨fun hv => by rw [hv]; rfl, fun r hslot => ?_⟩
  rw [hslot]
  dsimp only
  refine ⟨fun hk => by rw [if_pos hk]; rfl, fun hk hs => ?_, fun hk hh hd => ?_⟩
  · rw [if_neg (by rw [hk]; nofun), if_pos hs]; rfl
  · rw [if_neg (by rw [hk]; nofun), if_neg (not_or.mpr ⟨hh, hd⟩)]
    refine ⟨fun ha => ?_, fun ha => ?_⟩
    · rw [if_pos (Option.isSome_iff_ne_none.mpr ha)]; rfl
    · rw [if_neg (by rw [ha]; nofun)]; rfl

/-! ### PROBE_WITHDRAW -/

theorem mem_zonesNaming {s : State} {i : SlotId} {z : ZoneId} :
    z ∈ zonesNaming s i ↔ ∃ r, s.zone z = some r ∧ i ∈ r.defn.members := by
  unfold zonesNaming
  rw [List.mem_filter]
  refine ⟨fun ⟨_, h⟩ => ?_, fun ⟨r, hz, hm⟩ => ⟨List.mem_finRange z, ?_⟩⟩
  · split at h
    next r hz => exact ⟨r, hz, List.contains_iff_mem.mp h⟩
    next => cases h
  · rw [hz]; exact List.contains_iff_mem.mpr hm

theorem zonesNaming_eq_nil {s : State} {i : SlotId} (h : ∀ z r, s.zone z = some r → i ∉ r.defn.members) : zonesNaming s i = [] :=
  List.eq_nil_iff_forall_not_mem.mpr fun z hz => let ⟨r, hr, hm⟩ := mem_zonesNaming.mp hz; h z r hr hm

/-- The lowest zone that names a slot stands first (R78). -/
theorem zonesNaming_eq_cons {s : State} {i : SlotId} {z : ZoneId} {r : Zone} (hz : s.zone z = some r) (hm : i ∈ r.defn.members)
    (hlow : ∀ y < z, ∀ q, s.zone y = some q → i ∉ q.defn.members) : ∃ rest, zonesNaming s i = z :: rest := by
  have hhead : (zonesNaming s i).head? = some z := by
    unfold zonesNaming
    rw [List.head?_filter]
    refine find_finRange _ z ?_ fun y hy => ?_
    · rw [hz]; exact List.contains_iff_mem.mpr hm
    · split
      next q hq => exact Bool.eq_false_iff.mpr fun hc => hlow y hy q hq (List.contains_iff_mem.mp hc)
      next => rfl
  cases hl : zonesNaming s i with
  | nil => rw [hl] at hhead; cases hhead
  | cons y rest => rw [hl] at hhead; cases hhead; exact ⟨rest, rfl⟩

theorem orphaning_inFlight {l : Line} {t : Txn} {i : SlotId} (hb : l.state = .busy t) (hi : t.slot = i)
    (hp : t.phase = .sending ∨ t.phase = .awaiting ∨ t.phase = .receiving) :
    l.orphaning i = { l with state := .busy { t with orphan := true } } := by
  unfold Line.orphaning
  rw [hb]
  exact if_pos ⟨hi, (inFlight_iff t).mpr hp⟩

theorem orphaning_completed {l : Line} {i : SlotId}
    (h : ∀ t, l.state = .busy t → t.slot = i → t.phase = .discarding ∨ t.phase = .turnaround) : l.orphaning i = l := by
  unfold Line.orphaning
  split
  next t hb =>
    refine if_neg fun ⟨hi, hf⟩ => ?_
    rw [inFlight_of_completed (h t hb hi)] at hf
    cases hf
  next => rfl

theorem setLine_line (s : State) (l : LineId) : s.setLine l (s.line l) = s := by
  have h : s.lines.set l.val (s.line l) l.isLt = s.lines := Vector.set_getElem_self l.isLt
  unfold State.setLine
  rw [h]

/-- Settles O18: the checks of R78, and the transaction of the slot orphaned while it is in flight. -/
theorem probeWithdrawVacatesSlot : Obligations.ProbeWithdrawVacatesSlot := by
  intro tag n s hr
  have hrun : exec (.probeWithdraw tag 0 [n]) s = .next (takeProbeWithdraw tag 0 [n] (hunting s)) :=
    exec_request hr .probeWithdraw tag 0 (by simp)
  rw [hrun]
  unfold takeProbeWithdraw
  rw [takeNone_zero]
  dsimp only
  refine ⟨fun h => by rw [slotOfByte_eq_none.mpr h]; rfl, fun i hi => ?_⟩
  rw [hi]
  dsimp only
  rw [opened_slot, show zonesNaming (opened tag Op.probeWithdraw.code 0 s) i = zonesNaming s i from rfl]
  refine ⟨fun hv => by rw [hv]; rfl, fun r z zr hslot hz hm hlow => ?_, fun r hslot hnone => ⟨fun t hb hi hp => ?_, fun h => ?_⟩⟩
  · obtain ⟨rest, hl⟩ := zonesNaming_eq_cons hz hm hlow
    rw [hslot, hl]
    rfl
  · rw [hslot, zonesNaming_eq_nil hnone]
    dsimp only
    rw [opened_line, orphaning_inFlight hb hi hp]
    rfl
  · rw [hslot, zonesNaming_eq_nil hnone]
    dsimp only
    rw [opened_line, orphaning_completed h, opened_setLine, setLine_line]
    rfl

/-! ### PROBE_ENROL -/

section
variable {now : Time} {line address kind cls rule : Byte} {tOff rhOff : Int}

/-- The slot that the fields of a PROBE_ENROL spell, each in its range (R76, R77). -/
theorem parseEnrolment_eq_some {l : LineId} {k : Kind} {c : ResClass} {w : Widening} (hl : lineOfByte line = some l)
    (hk : kindOfCode kind = some k) (hc : classOfCode cls = some c) (hw : wideningOfCode rule = some w)
    (ha : 1 ≤ address.toNat ∧ address.toNat ≤ 62) (ht : -500 ≤ tOff ∧ tOff ≤ 500) (hrh : k = .air → -1000 ≤ rhOff ∧ rhOff ≤ 1000) :
    parseEnrolment now line address kind cls rule tOff rhOff = some
      { state := .pending, line := l, address := address.toNat, kind := k, cls := c, rule := w
        tempOffset := tOff, rhOffset := if k = .air then rhOff else 0
        reading := none, misses := 0, lastOutcome := .none, nextDue := now, lastPoll := now
        pace := .fast, due := true, advancedAt := none, run := 0, armed := none, deferred := false, heatEnd := none } := by
  unfold parseEnrolment
  rw [hl, hk, hc, hw]
  refine if_pos ?_
  simp only [Bool.and_eq_true, Bool.or_eq_true, decide_eq_true_eq, beq_iff_eq, inRange_iff]
  refine ⟨⟨ha, ht⟩, ?_⟩
  cases k with
  | air => exact .inr (hrh rfl)
  | surface => exact .inl rfl

/-- A field out of its range (R76 check 1). -/
def EnrolmentFails (line address kind cls rule : Byte) (tOff rhOff : Int) : Prop :=
  lineOfByte line = none ∨ kindOfCode kind = none ∨ classOfCode cls = none ∨ wideningOfCode rule = none
    ∨ address.toNat < 1 ∨ 62 < address.toNat ∨ tOff < -500 ∨ 500 < tOff
    ∨ kindOfCode kind = some .air ∧ (rhOff < -1000 ∨ 1000 < rhOff)

theorem parseEnrolment_eq_none (h : EnrolmentFails line address kind cls rule tOff rhOff) :
    parseEnrolment now line address kind cls rule tOff rhOff = none := by
  unfold parseEnrolment
  split
  next l k c w hl hk hc hw =>
    refine if_neg fun hin => ?_
    simp only [Bool.and_eq_true, Bool.or_eq_true, decide_eq_true_eq, beq_iff_eq, inRange_iff] at hin
    unfold EnrolmentFails at h
    rw [hl, hk, hc, hw] at h
    simp only [reduceCtorEq, false_or, Option.some.injEq] at h
    obtain ⟨⟨ha, ht⟩, hrh⟩ := hin
    obtain h | h | h | h | ⟨rfl, h⟩ := h
    · omega
    · omega
    · omega
    · omega
    · obtain hs | hs := hrh
      · cases hs
      · omega
  next => rfl

/-- With every field in its range the enrolment is parsed. -/
theorem parseEnrolment_of_not_fails (h : ¬EnrolmentFails line address kind cls rule tOff rhOff) :
    ∃ l k r, lineOfByte line = some l ∧ kindOfCode kind = some k
      ∧ parseEnrolment now line address kind cls rule tOff rhOff = some r ∧ r.line = l ∧ r.address = address.toNat := by
  unfold EnrolmentFails at h
  simp only [not_or, not_and, Nat.not_lt, Int.not_lt] at h
  obtain ⟨hl, hk, hc, hw, ha1, ha2, ht1, ht2, hrh⟩ := h
  obtain ⟨l, hl⟩ := Option.ne_none_iff_exists'.mp hl
  obtain ⟨k, hk⟩ := Option.ne_none_iff_exists'.mp hk
  obtain ⟨c, hc⟩ := Option.ne_none_iff_exists'.mp hc
  obtain ⟨w, hw⟩ := Option.ne_none_iff_exists'.mp hw
  refine ⟨l, k, _, hl, hk, parseEnrolment_eq_some hl hk hc hw ⟨ha1, ha2⟩ ⟨ht1, ht2⟩ fun hair => ?_, rfl, rfl⟩
  exact hrh (by rw [hk, hair])

end

/-- The search for a slot's line and address finds the lowest slot that has them (R76 check 3). -/
theorem slotAt_eq_some {s : State} {l : LineId} {a : Nat} {j : SlotId} {q : Slot} (hq : s.slot j = some q)
    (hl : q.line = l) (ha : q.address = a) (hlow : ∀ i < j, ∀ r, s.slot i = some r → ¬(r.line = l ∧ r.address = a)) :
    slotAt s l a = some j := by
  refine find_finRange _ j ?_ fun i hi => ?_
  · rw [hq]; simp [hl, ha]
  · split
    next r hr =>
      refine Bool.eq_false_iff.mpr fun hc => hlow i hi r hr ?_
      rwa [Bool.and_eq_true, beq_iff_eq, beq_iff_eq] at hc
    next => rfl

theorem slotAt_eq_none {s : State} {l : LineId} {a : Nat} (h : ∀ j q, s.slot j = some q → q.line = l → q.address ≠ a) :
    slotAt s l a = none := by
  refine List.find?_eq_none.mpr fun j _ => ?_
  split
  next q hq =>
    rw [Bool.and_eq_true, beq_iff_eq, beq_iff_eq]
    exact fun ⟨hl, ha⟩ => h j q hq hl ha
  next => exact Bool.false_ne_true

/-- Settles O17: the fields are parsed, then the slot and its line and address are looked at. -/
theorem probeEnrolEnrolsOrRefuses : Obligations.ProbeEnrolEnrolsOrRefuses := by
  have hrun : ∀ (tag : Byte) (p : List Byte) (s : State), Ready s → p.length ≤ 61 →
      exec (.probeEnrol tag 0 p) s = .next (takeProbeEnrol tag 0 p (hunting s)) := fun tag p s hr hp =>
    exec_request hr .probeEnrol tag 0 hp
  constructor
  · intro tag n line address kind cls rule tLo tHi rhLo rhHi i l k c w s u hr hi hl hk hc hw ha1 ha2 ht1 ht2 hrh hv hfree hu
    rw [hrun _ _ _ hr (by simp)]
    unfold takeProbeEnrol
    rw [takeNone_zero]
    dsimp only
    rw [hi, opened_timeBase, parseEnrolment_eq_some hl hk hc hw ⟨ha1, ha2⟩ ⟨ht1, ht2⟩ hrh]
    dsimp only
    rw [opened_slot, hv, if_neg (by nofun), show slotAt (opened tag Op.probeEnrol.code 0 s) l address.toNat = none from slotAt_eq_none hfree]
    dsimp only
    rw [opened_setSlot, okResult_missIfFaulted, ← hu]
    obtain ⟨hkept, hmissed⟩ := missIfFaulted_setSlot_pending (s := s) (i := i)
      (r := { state := .pending, line := l, address := address.toNat, kind := k, cls := c, rule := w
              tempOffset := signed16 tLo tHi, rhOffset := if k = .air then signed16 rhLo rhHi else 0
              reading := none, misses := 0, lastOutcome := .none, nextDue := s.timeBase, lastPoll := s.timeBase
              pace := .fast, due := true, advancedAt := none, run := 0, armed := none, deferred := false, heatEnd := none }) rfl rfl
    rw [← hu] at hkept hmissed
    exact ⟨fun hf => by rw [hkept hf]; rfl, fun hf => by rw [hmissed hf]; rfl⟩
  · intro tag n line address kind cls rule tLo tHi rhLo rhHi s hr
    dsimp only
    rw [hrun _ _ _ hr (by simp)]
    unfold takeProbeEnrol
    rw [takeNone_zero]
    dsimp only
    rw [opened_timeBase]
    refine ⟨fun hfails => ?_, fun hfields i hi => ?_⟩
    · obtain hn | hfails := hfails
      · rw [hn]; rfl
      · rw [parseEnrolment_eq_none hfails]
        cases slotOfByte n <;> rfl
    · obtain ⟨l, k, r, hl, hk, hparse, hrl, hra⟩ := parseEnrolment_of_not_fails (now := s.timeBase) fun h => hfields (.inr h)
      rw [hi, hparse]
      dsimp only
      rw [opened_slot]
      refine ⟨fun hv => ?_, fun hv j q hq hql hqa hlow => ?_⟩
      · rw [if_pos (Option.isSome_iff_ne_none.mpr hv)]; rfl
      · have hline : q.line = r.line := by rw [hrl]; exact Option.some.inj (hql.symm.trans hl)
        have haddress : q.address = r.address := hqa.trans hra.symm
        have hat : slotAt (opened tag Op.probeEnrol.code 0 s) r.line r.address = some j :=
          slotAt_eq_some hq hline haddress (by rw [← hline, ← haddress]; exact hlow)
        rw [hv, if_neg (by nofun), hat]
        rfl

end Sys2Proof.Machine
end

section
/-! Requests of the saturation table unit at an IDLE part, and the bytes of a load (R54 to R64, R173). -/

namespace Sys2Proof.Machine

/-! ### The bank that a byte names -/

theorem loadableNamed_eq_some {n : Byte} {k : BankId} {b : Bank} {t : Tables} (hk : bankOfCode n = some k) (hb : t.loadable k = some b) :
    ((bankOfCode n).bind fun k => (t.loadable k).map fun b => (k, b)) = some (k, b) := by
  rw [hk, Option.bind_some, hb, Option.map_some]

theorem loadableNamed_eq_none {n : Byte} (h : n.toNat = 0 ∨ 2 < n.toNat) (t : Tables) :
    ((bankOfCode n).bind fun k => (t.loadable k).map fun b => (k, b)) = none := by
  obtain h | h := h
  · have hn : n = 0 := BitVec.eq_of_toNat_eq h
    subst hn
    rfl
  · rw [bankOfCode_eq_none.mpr h]; rfl

/-! ### TABLE_BEGIN -/

/-- Settles O24: the bank is begun and any other load is abandoned. -/
theorem tableBeginStartsLoad : Obligations.TableBeginStartsLoad := by
  intro tag n count s hr
  have hrun : exec (.tableBegin tag 0 [n, count]) s = .next (takeTableBegin tag 0 [n, count] (hunting s)) :=
    exec_request hr .tableBegin tag 0 (by simp)
  rw [hrun]
  unfold takeTableBegin
  rw [takeNone_zero]
  dsimp only
  rw [opened_tables]
  refine ⟨fun h => ?_, fun k b hk hb h2 h64 => ?_⟩
  · split
    next hn =>
      have hcount : ¬inRange 2 64 count.toNat = true := by
        rw [inRange_iff]
        obtain h | h | h := h
        · rw [loadableNamed_eq_none (.inl h)] at hn; cases hn
        · rw [loadableNamed_eq_none (.inr h)] at hn; cases hn
        · omega
      rw [if_neg hcount]; rfl
    · rfl
  · rw [loadableNamed_eq_some hk hb]
    dsimp only
    rw [if_pos (inRange_iff.mpr ⟨h2, h64⟩)]
    refine ⟨fun hs => by rw [if_pos hs]; rfl, fun hact hpend => ?_⟩
    rw [if_neg (not_or.mpr ⟨hact, hpend⟩)]
    have habandoned : s.tables.abandoned.loadable k = some b.abandonLoad := by rw [loadable_abandoned, hb]; rfl
    refine ⟨s.tables.begin k count.toNat, rfl, ?_, ?_, ?_, fun j c hj hc => ?_⟩
    · rw [begin_eq]; exact setBank_rom _ _ _
    · rw [begin_eq]
    · rw [begin_eq, loadable_withCursor, loadable_setBank habandoned, if_pos rfl]; rfl
    · rw [begin_eq, loadable_withCursor, loadable_setBank habandoned, if_neg hj, loadable_abandoned, hc]; rfl

/-! ### The end of a frame's bytes -/

/-- The part after the bytes of a DATA frame, by the way in which they leave the data phase (R58, R173). -/
def loadLeft (t : Tables) (x : Exchange) (e : LoadEnd) (s : State) : State :=
  let s' := { s with tables := t, link := { s.link with exchange := some x } }
  match e with
  | .beyondE => sendResult .halted .none [] s'
  | .tableFull => sendResult .halted .tableFull [] s'
  | .allTaken => if x.expected ≤ x.taken then sendResult (if x.held.isSome then .short else .ok) .none [] s' else s'

theorem consumeData_eq {s : State} {x : Exchange} (hx : s.link.exchange = some x) (body : List Byte) :
    consumeData body s = loadLeft (loadBytes s.tables x body).1 (loadBytes s.tables x body).2.1 (loadBytes s.tables x body).2.2 s := by
  unfold consumeData
  rw [hx]
  rfl

theorem loadLeft_beyondE (t : Tables) (x : Exchange) (s : State) :
    loadLeft t x .beyondE s = ended x .halted .none [] { s with tables := t } := rfl

theorem loadLeft_tableFull (t : Tables) (x : Exchange) (s : State) :
    loadLeft t x .tableFull s = ended x .halted .tableFull [] { s with tables := t } := rfl

theorem loadLeft_reached {x : Exchange} (h : x.expected ≤ x.taken) (t : Tables) (s : State) :
    loadLeft t x .allTaken s = ended x (if x.held.isSome then .short else .ok) .none [] { s with tables := t } := if_pos h

theorem loadLeft_goesOn {x : Exchange} (h : x.taken < x.expected) (t : Tables) (s : State) :
    loadLeft t x .allTaken s = { s with tables := t, link := { s.link with exchange := some x } } := if_neg (Nat.not_le_of_lt h)

/-- A DATA frame under the open request's tag is consumed in RECEIVING. -/
theorem exec_dataFrame_receiving {s : State} {x : Exchange} {body : List Byte} (hs : s.link.state = .receiving)
    (hx : s.link.exchange = some x) (hb : body.length ≤ 64) :
    exec (.dataFrame x.tag body) s = .next (loadLeft (loadBytes s.tables x body).1 (loadBytes s.tables x body).2.1
      (loadBytes s.tables x body).2.2 (hunting s)) := by
  show Host.Outcome.next (frameEnds dataKind x.tag body s) = _
  unfold frameEnds
  rw [if_pos hb]
  unfold goodFrame
  rw [if_neg (by decide), if_pos rfl]
  unfold goodData
  show Host.Outcome.next (match s.link.state, s.link.exchange with | .receiving, some y => _ | _, _ => _) = _
  rw [hs, hx]
  dsimp only
  rw [if_pos rfl, consumeData_eq (s := dropPartial s) hx]
  rfl

/-! ### Bytes one by one -/

theorem loadBytes_beyondE {t : Tables} {x : Exchange} (h : x.expected ≤ x.taken) (b : Byte) (bs : List Byte) :
    loadBytes t x (b :: bs) = (t, x, .beyondE) := by
  unfold loadBytes
  exact if_pos h

theorem loadBytes_tableFull {t : Tables} {x : Exchange} (h : x.taken < x.expected) (hc : t.cursor = none) (b : Byte) (bs : List Byte) :
    loadBytes t x (b :: bs) = (t, x, .tableFull) := by
  unfold loadBytes
  rw [if_neg (Nat.not_le_of_lt h), if_pos (Option.isNone_iff_eq_none.mpr hc)]

theorem loadBytes_first {t : Tables} {x : Exchange} (h : x.taken < x.expected) (hc : t.cursor ≠ none) (hx : x.held = none) (b : Byte)
    (bs : List Byte) : loadBytes t x (b :: bs) = loadBytes t { x with held := some b, taken := x.taken + 1 } bs := by
  rw [loadBytes, if_neg (Nat.not_le_of_lt h), if_neg (by rwa [Option.isNone_iff_eq_none]), hx]

theorem loadBytes_second {t : Tables} {x : Exchange} {lo : Byte} (h : x.taken < x.expected) (hc : t.cursor ≠ none)
    (hx : x.held = some lo) (b : Byte) (bs : List Byte) : loadBytes t x (b :: bs)
      = loadBytes (t.writeElement lo b) { x with held := none, taken := x.taken + 1, moved := x.moved + 2 } bs := by
  rw [loadBytes, if_neg (Nat.not_le_of_lt h), if_neg (by rwa [Option.isNone_iff_eq_none]), hx]

/-- Settles O25: the request opens the data phase, and each byte goes by its own rule. -/
theorem tableLoadTakesBytes : Obligations.TableLoadTakesBytes := by
  constructor
  · intro tag e s hr he
    have hrun : exec (.tableLoad tag e []) s = .next (takeTableLoad tag e [] (hunting s)) := exec_request hr .tableLoad tag e (by simp)
    rw [hrun]
    unfold takeTableLoad
    rw [takeData_of_le he]
    dsimp only
    rw [opened_tables]
    refine ⟨fun hc => by rw [hc]; rfl, fun hc => ?_⟩
    rw [if_neg (by rwa [Option.isNone_iff_eq_none])]
    refine ⟨?_, fun h0 => by rw [if_neg h0]; rfl⟩
    rintro rfl
    rw [if_pos rfl]
    rfl
  · intro b x s hs hx hlt
    rw [exec_dataFrame_receiving hs hx (by simp)]
    refine ⟨fun hc => ?_, fun hc hheld => ?_, fun lo hc hheld => ?_⟩
    · rw [loadBytes_tableFull hlt hc]
      rfl
    · rw [loadBytes_first hlt hc hheld]
      refine ⟨fun hmore => ?_, fun hlast => ?_⟩
      · exact congrArg _ (loadLeft_goesOn (x := { x with held := some b, taken := x.taken + 1 }) hmore _ _)
      · exact congrArg _ (loadLeft_reached (x := { x with held := some b, taken := x.taken + 1 }) (Nat.le_of_eq hlast.symm) _ _)
    · rw [loadBytes_second hlt hc hheld]
      refine ⟨fun hmore => ?_, fun hlast => ?_⟩
      · exact congrArg _ (loadLeft_goesOn (x := { x with held := none, taken := x.taken + 1, moved := x.moved + 2 }) hmore _ _)
      · exact congrArg _ (loadLeft_reached (x := { x with held := none, taken := x.taken + 1, moved := x.moved + 2 }) (Nat.le_of_eq hlast.symm) _ _)

/-! ### Frames of several bytes -/

/-- The way in which bytes leave the data phase, and what they leave of the counts. -/
theorem loadBytes_counts (t : Tables) (x : Exchange) (bs : List Byte) (h : x.taken ≤ x.expected) :
    (loadBytes t x bs).2.1.tag = x.tag ∧ (loadBytes t x bs).2.1.expected = x.expected ∧ (loadBytes t x bs).2.1.taken ≤ x.expected
      ∧ ((loadBytes t x bs).2.2 = .beyondE → (loadBytes t x bs).2.1.taken = x.expected)
      ∧ ((loadBytes t x bs).2.2 = .tableFull → (loadBytes t x bs).2.1.taken < x.expected) := by
  induction bs generalizing t x with
  | nil => exact ⟨rfl, rfl, h, nofun, nofun⟩
  | cons b bs ih =>
    obtain hge | hlt := (Nat.lt_or_ge x.taken x.expected).symm
    · rw [loadBytes_beyondE hge]
      exact ⟨rfl, rfl, h, fun _ => Nat.le_antisymm h hge, nofun⟩
    · by_cases hc : t.cursor = none
      · rw [loadBytes_tableFull hlt hc]
        exact ⟨rfl, rfl, h, nofun, fun _ => hlt⟩
      · cases hx : x.held with
        | none => rw [loadBytes_first hlt hc hx]; exact ih t { x with held := some b, taken := x.taken + 1 } hlt
        | some lo =>
          rw [loadBytes_second hlt hc hx]
          exact ih (t.writeElement lo b) { x with held := none, taken := x.taken + 1, moved := x.moved + 2 } hlt

/-- Bytes are taken in order, whatever frames they come in. -/
theorem loadBytes_append (t : Tables) (x : Exchange) (a c : List Byte) :
    ((loadBytes t x a).2.2 = .allTaken → loadBytes t x (a ++ c) = loadBytes (loadBytes t x a).1 (loadBytes t x a).2.1 c)
      ∧ ((loadBytes t x a).2.2 ≠ .allTaken → loadBytes t x (a ++ c) = loadBytes t x a) := by
  induction a generalizing t x with
  | nil => exact ⟨fun _ => rfl, fun h => absurd rfl h⟩
  | cons b bs ih =>
    rw [List.cons_append]
    obtain hge | hlt := (Nat.lt_or_ge x.taken x.expected).symm
    · rw [loadBytes_beyondE hge, loadBytes_beyondE hge]
      exact ⟨nofun, fun _ => rfl⟩
    · by_cases hc : t.cursor = none
      · rw [loadBytes_tableFull hlt hc, loadBytes_tableFull hlt hc]
        exact ⟨nofun, fun _ => rfl⟩
      · cases hx : x.held with
        | none => rw [loadBytes_first hlt hc hx, loadBytes_first hlt hc hx]; exact ih _ _
        | some lo => rw [loadBytes_second hlt hc hx, loadBytes_second hlt hc hx]; exact ih _ _

/-- The result of a data phase reads and writes the same parts of the link as a result before it. -/
theorem ended_ended (x : Exchange) (o o' : Outcome) (r r' : Reason) (f f' : List Byte) (s : State) :
    ended { x with held := none, source := none } o r f (ended x o' r' f' s) = ended x o r f s := rfl

/-- Settles O26: a frame's bytes are taken in order until one is not, and an element is written at the cursor. -/
theorem dataFramesWriteElements : Obligations.DataFramesWriteElements := by
  constructor
  · intro a c x y s t hs hx hlt hlen hrun hy
    have ha : a.length ≤ 64 := by rw [List.length_append] at hlen; omega
    rw [exec_dataFrame_receiving hs hx ha] at hrun
    cases hrun
    rw [exec_dataFrame_receiving hs hx hlen]
    obtain ⟨happ, hstop⟩ := loadBytes_append s.tables x a c
    obtain ⟨htag, hexp, hle, hbeyond, hfull⟩ := loadBytes_counts s.tables x a (Nat.le_of_lt hlt)
    have hempty : a = [] → loadBytes s.tables x a = (s.tables, x, .allTaken) := by rintro rfl; rfl
    generalize loadBytes s.tables x a = p at happ hstop htag hexp hle hbeyond hfull hempty hy ⊢
    obtain ⟨t', x', e⟩ := p
    dsimp only at happ hstop htag hexp hle hbeyond hfull hy ⊢
    refine ⟨fun hnil => ?_, fun hrec => ?_, fun hend htaken hc => ?_, fun hend htaken => ?_⟩
    · cases hempty hnil
      rw [loadLeft_goesOn hlt, ← hx]
      rfl
    · cases e with
      | beyondE => cases hrec
      | tableFull => cases hrec
      | allTaken =>
        obtain hge | hmore := (Nat.lt_or_ge x'.taken x'.expected).symm
        · rw [loadLeft_reached hge] at hrec; cases hrec
        · have hcl : c.length ≤ 64 := by rw [List.length_append] at hlen; omega
          rw [loadLeft_goesOn hmore, happ rfl, ← htag]
          exact (exec_dataFrame_receiving
            (s := { hunting s with tables := t', link := { (hunting s).link with exchange := some x' } }) (x := x') hs rfl hcl).symm
    · cases e with
      | beyondE => rw [hstop nofun]; cases hy; rfl
      | tableFull =>
        cases hy
        exact absurd (hfull rfl) (Nat.not_lt_of_le (Nat.le_of_eq htaken.symm))
      | allTaken =>
        obtain hge | hmore := (Nat.lt_or_ge x'.taken x'.expected).symm
        · obtain ⟨b, cs, rfl⟩ := List.exists_cons_of_ne_nil hc
          rw [happ rfl, loadBytes_beyondE hge, loadLeft_beyondE]
          rw [loadLeft_reached hge] at hy ⊢
          cases hy
          rfl
        · rw [loadLeft_goesOn hmore] at hend
          exact absurd hs hend
    · cases e with
      | beyondE => cases hy; exact absurd (hbeyond rfl) htaken
      | tableFull => rw [hstop nofun]
      | allTaken =>
        obtain hge | hmore := (Nat.lt_or_ge x'.taken x'.expected).symm
        · rw [loadLeft_reached hge] at hy
          cases hy
          exact absurd (Nat.le_antisymm hle (hexp ▸ hge)) htaken
        · rw [loadLeft_goesOn hmore] at hend
          exact absurd hs hend
  · intro t cur b c c' half lo hi hcur hb hcon hc' hhalf
    have hcheck : c.check cur.entry lo hi = c' := by rw [hc']; rfl
    refine ⟨fun hpos => ?_, fun temp full hpos htemp hfull => ?_⟩
    · rw [writeElement_temperature hcur hb hcon hpos, hcheck, hhalf]
      rfl
    · have hwritten := writeElement_pressure hcur hb hcon hpos htemp lo hi (full := full) (by rw [hcheck, hfull]; rfl)
      exact ⟨fun hlast => by rw [hwritten, if_pos hlast], fun hmore => by rw [hwritten, if_neg hmore]⟩

end Sys2Proof.Machine
end

section
/-! TABLE_COMMIT and TABLE_SELECT at an IDLE part (R60 to R64). -/

namespace Sys2Proof.Machine

/-! ### The order test (R61) -/

theorem orderHolds_beyond {es : List Entry} {i : Nat} (h : es.length ≤ i) : OrderHolds es i := fun y hy => by
  rw [List.getElem?_eq_none h] at hy
  cases hy

theorem orderHolds_first {e : Entry} {rest : List Entry} : OrderHolds (e :: rest) 0 ↔ e.pressure ≠ 0 := by
  refine ⟨fun h => Nat.one_le_iff_ne_zero.mp (h e rfl).1, fun h y hy => ?_⟩
  cases hy
  exact ⟨Nat.one_le_iff_ne_zero.mpr h, fun _ h0 => absurd h0 (Nat.lt_irrefl 0)⟩

theorem orderHolds_next {pre rest : List Entry} {e n : Entry} :
    OrderHolds (pre ++ e :: n :: rest) (pre.length + 1) ↔ e.temp < n.temp ∧ e.pressure < n.pressure := by
  have hn : (pre ++ e :: n :: rest)[pre.length + 1]? = some n := by simp
  have he : (pre ++ e :: n :: rest)[pre.length + 1 - 1]? = some e := by simp
  refine ⟨fun h => (h n hn).2 e (Nat.succ_pos _) he, fun h y hy => ?_⟩
  rw [hn] at hy
  cases hy
  refine ⟨Nat.one_le_of_lt h.2, fun x _ hx => ?_⟩
  rw [he] at hx
  cases hx
  exact h

/-- What the order test answers of a list: no failing entry, or the lowest. -/
def OrderFound (es : List Entry) : Option Nat → Prop
  | none => ∀ i, OrderHolds es i
  | some i => OrderFails es i

theorem orderFound_from (pre : List Entry) (e : Entry) (rest : List Entry) (h : ∀ j ≤ pre.length, OrderHolds (pre ++ e :: rest) j) :
    OrderFound (pre ++ e :: rest) (orderFailureFrom e (pre.length + 1) rest) := by
  induction rest generalizing pre e with
  | nil =>
    intro i
    obtain hi | hi := Nat.lt_or_ge i (pre ++ [e]).length
    · exact h i (by rw [List.length_append] at hi; exact Nat.le_of_lt_succ hi)
    · exact orderHolds_beyond hi
  | cons n rest ih =>
    unfold orderFailureFrom
    split
    next hrise =>
      have hshift : pre ++ e :: n :: rest = (pre ++ [e]) ++ n :: rest := by simp
      have hnext := ih (pre ++ [e]) n
      rw [← hshift, List.length_append] at hnext
      refine hnext fun j hj => ?_
      obtain hlt | rfl := Nat.lt_or_eq_of_le hj
      · exact h j (Nat.le_of_lt_succ hlt)
      · exact orderHolds_next.mpr hrise
    next hfall => exact ⟨fun hn => hfall (orderHolds_next.mp hn), fun j hj => h j (Nat.le_of_lt_succ hj)⟩

theorem orderFound_orderFailure (es : List Entry) : OrderFound es (orderFailure es) := by
  cases es with
  | nil => exact fun i => orderHolds_beyond (Nat.zero_le i)
  | cons e rest =>
    unfold orderFailure
    dsimp only
    split
    next h0 => exact ⟨fun h => orderHolds_first.mp h h0, fun j hj => absurd hj (Nat.not_lt_zero j)⟩
    next h0 =>
      refine orderFound_from [] e rest fun j hj => ?_
      obtain rfl := Nat.le_zero.mp hj
      exact orderHolds_first.mpr h0

theorem orderFailure_eq_none_of {es : List Entry} (h : ∀ i, OrderHolds es i) : orderFailure es = none := by
  have hfound := orderFound_orderFailure es
  cases hf : orderFailure es with
  | none => rfl
  | some i => rw [hf] at hfound; exact absurd (h i) hfound.1

theorem orderFailure_eq_some_of {es : List Entry} {i : Nat} (h : OrderFails es i) : orderFailure es = some i := by
  have hfound := orderFound_orderFailure es
  cases hf : orderFailure es with
  | none => rw [hf] at hfound; exact absurd (hfound i) h.1
  | some j =>
    rw [hf] at hfound
    obtain hlt | rfl | hgt := Nat.lt_trichotomy i j
    · exact absurd (hfound.2 i hlt) h.1
    · rfl
    · exact absurd (h.2 j hgt) hfound.1

/-! ### A bank that becomes PENDING (R62 to R64) -/

theorem setState_overwritten (t : Tables) (k old : BankId) (v w x : BankState) :
    ((t.setState k v).setState old w).setState k x = (t.setState old w).setState k x := by
  cases k <;> cases old <;> rfl

/-- With the evaluator idle the bank is swapped in at once (R62, R63). -/
theorem makePending_idle {s : State} {k old : BankId} (hidle : s.current = none) (hp : ∀ j, s.tables.stateOf j ≠ .pending)
    (hact : ∀ j, s.tables.stateOf j = .active ↔ j = old) (hk : s.tables.stateOf k ≠ .active) : makePending k s = swapped k old s := by
  have hpend : (s.tables.setState k .pending).pendingBank = some k := pendingBank_eq_some fun j => by
    rw [stateOf_setState]
    split
    · simpa
    · simp_all
  have hold : (s.tables.setState k .pending).activeBank = old := activeBank_eq fun j => by
    rw [stateOf_setState, ← hact j]
    split
    next hj => subst hj; simp [hk]
    next => rfl
  unfold makePending swapped
  rw [hidle]
  dsimp only [Option.isNone_none]
  rw [if_pos rfl]
  unfold swapPending
  dsimp only
  rw [hpend]
  dsimp only
  rw [hold, setState_overwritten]

/-- During an evaluation the bank is PENDING (R62, R63). -/
theorem makePending_busy {s : State} (h : s.current ≠ none) (k : BankId) :
    makePending k s = { s with tables := s.tables.setState k .pending } :=
  if_neg (by rwa [Option.isNone_iff_eq_none])

theorem emit_tables (b : NoticeBody) (s : State) : (emit b s).tables = s.tables := (emit_noticesOnly b s).tables

theorem emit_link (b : NoticeBody) (s : State) : (emit b s).link = s.link := (emit_noticesOnly b s).link

theorem linkApart_swapped (k old : BankId) : LinkApart (swapped k old) := fun s l =>
  emit_setLink (.tableSwap k old) { s with tables := (s.tables.setState old .standby).setState k .active } l

theorem swapped_opened (k old : BankId) (tag op : Byte) (e : Nat) (s : State) :
    swapped k old (opened tag op e s) = opened tag op e (swapped k old s) :=
  (linkApart_swapped k old).opened tag op e s (emit_link _ _)

theorem stateField_of {s : State} {k : BankId} {v : BankState} (h : s.tables.stateOf k = v) : stateField k s = [v.code] := by
  unfold stateField
  rw [h]

/-- The answer to a request that makes a bank PENDING: the part with the bank's new state, which the result carries. -/
theorem pendingAnswer_idle {s : State} {k old : BankId} (hidle : s.current = none) (hp : ∀ j, s.tables.stateOf j ≠ .pending)
    (hact : ∀ j, s.tables.stateOf j = .active ↔ j = old) (hk : s.tables.stateOf k ≠ .active) (tag op : Byte) (e : Nat) :
    okResult (makePending k (opened tag op e s)) (stateField k (makePending k (opened tag op e s)))
      = answered tag op e .ok .none [4] (swapped k old s) := by
  have hfield : stateField k (swapped k old s) = [4] := stateField_of (v := .active) (by
    unfold swapped
    rw [emit_tables, stateOf_setState, if_pos rfl])
  rw [makePending_idle (s := opened tag op e s) hidle hp hact hk, swapped_opened, okResult_opened]
  exact congrArg (fun f => answered tag op e .ok .none f (swapped k old s)) hfield

theorem pendingAnswer_busy {s : State} (h : s.current ≠ none) (k : BankId) (tag op : Byte) (e : Nat) :
    okResult (makePending k (opened tag op e s)) (stateField k (makePending k (opened tag op e s)))
      = answered tag op e .ok .none [3] { s with tables := s.tables.setState k .pending } := by
  have hfield : stateField k { s with tables := s.tables.setState k .pending } = [3] := stateField_of (v := .pending) (by
    rw [stateOf_setState, if_pos rfl])
  rw [makePending_busy (s := opened tag op e s) h]
  exact congrArg (fun f => answered tag op e .ok .none f { s with tables := s.tables.setState k .pending }) hfield

theorem pendingBank_isSome {t : Tables} : t.pendingBank.isSome = true ↔ ∃ j, t.stateOf j = .pending := by
  rw [Option.isSome_iff_ne_none, ne_eq, pendingBank_eq_none, Classical.not_forall]
  exact exists_congr fun _ => Classical.not_not

/-! ### TABLE_COMMIT and TABLE_SELECT -/

theorem stateOf_loadable {t : Tables} {k : BankId} {b : Bank} (h : t.loadable k = some b) : t.stateOf k = b.state := by
  obtain ⟨rfl, rfl⟩ | ⟨rfl, rfl⟩ := loadable_eq_some h <;> rfl

/-- TABLE_COMMIT at an IDLE part comes to its own checks. -/
theorem exec_tableCommit {s : State} (hr : Ready s) (tag n lo1 hi1 lo2 hi2 : Byte) :
    exec (.tableCommit tag 0 [n, lo1, hi1, lo2, hi2]) s
      = .next (takeTableCommit tag 0 [n, lo1, hi1, lo2, hi2] (hunting s)) :=
  exec_request hr .tableCommit tag 0 (by simp)

/-- TABLE_COMMIT of a LOADED bank with no bank PENDING comes to its checks in their order (R61). -/
theorem takeTableCommit_loaded {s : State} {n : Byte} {k : BankId} {b : Bank} {c : BankContents} (hn : bankOfCode n = some k)
    (hb : s.tables.loadable k = some b) (hst : b.state = .loaded) (hc : b.contents = some c)
    (hp : ∀ j, s.tables.stateOf j ≠ .pending) (tag lo1 hi1 lo2 hi2 : Byte) :
    takeTableCommit tag 0 [n, lo1, hi1, lo2, hi2] (hunting s) =
      let u := opened tag 0x42 0 s
      if word16 lo1 hi1 ≠ c.check1 then refuse .checkFirst u (bytes16 c.check1.toNat ++ bytes16 c.check2.toNat)
      else if word16 lo2 hi2 ≠ c.check2 then refuse .checkSecond u (bytes16 c.check1.toNat ++ bytes16 c.check2.toNat)
      else match orderFailure c.entries with
        | some i => refuse .order u [byte i]
        | none => okResult (makePending k u) (stateField k (makePending k u)) := by
  unfold takeTableCommit
  rw [takeNone_zero]
  dsimp only
  rw [opened_tables, loadableNamed_eq_some hn hb]
  dsimp only
  rw [hst, hc]
  dsimp only
  rw [if_neg (by rw [pendingBank_isSome]; exact fun ⟨j, hj⟩ => hp j hj)]
  rfl

/-- Settles O27: a LOADED bank is validated and becomes ACTIVE or PENDING, or the first failing check refuses it. -/
theorem tableCommitValidatesOrRefuses : Obligations.TableCommitValidatesOrRefuses := by
  constructor
  · intro tag n lo1 hi1 lo2 hi2 k old b c s hr hn hb hst hc hp hact h1 h2 horder
    rw [exec_tableCommit hr, takeTableCommit_loaded hn hb hst hc hp]
    dsimp only
    rw [if_neg (Classical.not_not.mpr h1.symm), if_neg (Classical.not_not.mpr h2.symm), orderFailure_eq_none_of horder]
    have hk : s.tables.stateOf k ≠ .active := by rw [stateOf_loadable hb, hst]; exact nofun
    exact ⟨fun hidle => congrArg _ (pendingAnswer_idle hidle hp hact hk tag 0x42 0),
      fun hbusy => congrArg _ (pendingAnswer_busy hbusy k tag 0x42 0)⟩
  · intro tag n lo1 hi1 lo2 hi2 s hr
    dsimp only
    rw [exec_tableCommit hr]
    refine ⟨fun h => ?_, fun k b hn hb => ⟨fun h => ?_, fun c hst hc => ⟨fun hp => ?_, fun hp => ?_⟩⟩⟩
    · unfold takeTableCommit
      rw [takeNone_zero]
      dsimp only
      rw [opened_tables, loadableNamed_eq_none h]
      rfl
    · unfold takeTableCommit
      rw [takeNone_zero]
      dsimp only
      rw [opened_tables, loadableNamed_eq_some hn hb]
      dsimp only
      split
      next c hst hc =>
        obtain h | h := h
        · exact absurd hst h
        · rw [hc] at h; cases h
      next => rfl
    · unfold takeTableCommit
      rw [takeNone_zero]
      dsimp only
      rw [opened_tables, loadableNamed_eq_some hn hb]
      dsimp only
      rw [hst, hc]
      dsimp only
      rw [if_pos (pendingBank_isSome.mpr hp)]
      rfl
    · rw [takeTableCommit_loaded hn hb hst hc hp]
      dsimp only
      refine ⟨fun h1 => ?_, fun h1 h2 => ?_, fun h1 h2 i hi => ?_⟩
      · rw [if_pos h1.symm]; rfl
      · rw [if_neg (Classical.not_not.mpr h1.symm), if_pos h2.symm]; rfl
      · rw [if_neg (Classical.not_not.mpr h1.symm), if_neg (Classical.not_not.mpr h2.symm), orderFailure_eq_some_of hi]; rfl

/-- Settles O28: the answer goes by the state of the bank. -/
theorem tableSelectSelectsBank : Obligations.TableSelectSelectsBank := by
  intro tag n s hr
  have hrun : exec (.tableSelect tag 0 [n]) s = .next (takeTableSelect tag 0 [n] (hunting s)) :=
    exec_request hr .tableSelect tag 0 (by simp)
  rw [hrun]
  unfold takeTableSelect
  rw [takeNone_zero]
  dsimp only
  rw [opened_tables]
  refine ⟨fun h => ?_, fun k hk => ?_⟩
  · rw [bankOfCode_eq_none.mpr h]; rfl
  rw [hk]
  dsimp only
  refine ⟨fun h => ?_, fun h => ?_, fun h => ?_, fun h => ⟨fun hp => ?_, fun hp => ⟨fun hbusy => ?_, fun old hact hidle => ?_⟩⟩⟩
  · rw [h]
    dsimp only
    rw [stateField_of (s := opened tag Op.tableSelect.code 0 s) h]
    rfl
  · rw [h]
    dsimp only
    rw [stateField_of (s := opened tag Op.tableSelect.code 0 s) h]
    rfl
  · obtain h | h | h := h <;> rw [h] <;> rfl
  · rw [h]
    dsimp only
    rw [if_pos (pendingBank_isSome.mpr hp)]
    rfl
  · rw [h]
    dsimp only
    rw [if_neg (by rw [pendingBank_isSome]; exact fun ⟨j, hj⟩ => hp j hj)]
    exact congrArg _ (pendingAnswer_busy hbusy k tag 0x43 0)
  · rw [h]
    dsimp only
    rw [if_neg (by rw [pendingBank_isSome]; exact fun ⟨j, hj⟩ => hp j hj)]
    exact congrArg _ (pendingAnswer_idle hidle hp hact (by rw [h]; exact nofun) tag 0x43 0)

end Sys2Proof.Machine
end

section
/-! The events of the probe lines: the phases of a transaction, the levels of PLn-D, and the characters of a reply (R123 to R136). -/

namespace Sys2Proof.Machine

/-- A line that is not BUSY is in one of the three other states. -/
theorem LineState.not_busy {st : LineState} (h : ∀ t, st ≠ .busy t) : st = .off ∨ st = .idle ∨ st = .fault := by
  cases st with
  | off => exact .inl rfl
  | idle => exact .inr (.inl rfl)
  | busy t => exact absurd rfl (h t)
  | fault => exact .inr (.inr rfl)

theorem complete_eq_handedOn (l : LineId) (ln : Line) (t : Txn) (p : Phase) (rep : Report) (s : State) :
    complete l ln t p rep s = handedOn t rep (s.setLine l { ln with state := .busy { t with phase := p, framingWait := false } }) := rfl

/-! ### The phases of a transaction -/

section
variable {s : State} {l : LineId} {t : Txn} (h : (s.line l).state = .busy t)
include h

theorem exec_pollSent_busy : exec (.pollSent l) s = if t.phase = .sending then .next (s.setLine l { s.line l with
    state := .busy { t with phase := .awaiting }, driveEnable := false, activeStretch := (s.line l).activeLevel }) else .next s := by
  show execPollSent l s = _
  unfold execPollSent
  dsimp only
  rw [h]

theorem exec_replyTimeout_busy : exec (.replyTimeout l) s
    = if t.phase = .awaiting then .next (complete l (s.line l) t .turnaround (.miss .silent) s) else .next s := by
  show execReplyTimeout l s = _
  unfold execReplyTimeout
  rw [h]

theorem exec_discardingEnd_busy : exec (.discardingEnd l) s = if t.phase = .discarding ∧ (s.line l).activeLevel = false
    then .next (s.setLine l { s.line l with state := .busy { t with phase := .turnaround } }) else .next s := by
  show execDiscardingEnd l s = _
  unfold execDiscardingEnd
  rw [h]

theorem exec_turnaroundEnd_busy : exec (.turnaroundEnd l) s
    = if t.phase = .turnaround then .next (s.setLine l { s.line l with state := .idle }) else .next s := by
  show execTurnaroundEnd l s = _
  unfold execTurnaroundEnd
  rw [h]

end

/-- Settles O46: each event acts in its own phase alone. -/
theorem transactionsPassTheirPhases : Obligations.TransactionsPassTheirPhases := by
  intro l s
  refine ⟨fun t ht => ?_, fun hn => ?_⟩
  · rw [exec_pollSent_busy ht, exec_replyTimeout_busy ht, exec_discardingEnd_busy ht, exec_turnaroundEnd_busy ht]
    refine ⟨fun h => if_pos h, fun h => if_neg h, fun h => if_pos h, fun h => if_neg h, fun h hl => if_pos ⟨h, hl⟩,
      fun h => if_neg ?_, fun h => if_pos h, fun h => if_neg h⟩
    rintro ⟨hp, hl⟩
    obtain h | h := h
    · exact h hp
    · rw [hl] at h; cases h
  · show execPollSent l s = _ ∧ execReplyTimeout l s = _ ∧ execDiscardingEnd l s = _ ∧ execTurnaroundEnd l s = _
    unfold execPollSent execReplyTimeout execDiscardingEnd execTurnaroundEnd
    dsimp only
    obtain h | h | h := LineState.not_busy hn <;> rw [h] <;> exact ⟨rfl, rfl, rfl, rfl⟩

/-! ### The levels of PLn-D -/

section
variable {ln : Line} {t : Txn}

theorem leaving_off (h : ln.state = .off) : ln.leaving = { ln with activeLevel := true } := by
  cases ln; cases h; rfl

theorem leaving_idle (h : ln.state = .idle) : ln.leaving = { ln with activeLevel := true, activeStretch := true } := by
  cases ln; cases h; rfl

theorem leaving_fault (h : ln.state = .fault) : ln.leaving = { ln with activeLevel := true, restStretch := false } := by
  cases ln; cases h; rfl

theorem leaving_sending (h : ln.state = .busy t) (hp : t.phase = .sending) : ln.leaving = { ln with activeLevel := true } := by
  cases ln; cases h; cases t; cases hp; rfl

theorem leaving_awaiting (h : ln.state = .busy t) (hp : t.phase = .awaiting) : ln.leaving
    = { ln with activeLevel := true, activeStretch := true, state := .busy { t with phase := .receiving } } := by
  cases ln; cases h; cases t; cases hp; rfl

theorem leaving_later (h : ln.state = .busy t) (hs : t.phase ≠ .sending) (ha : t.phase ≠ .awaiting) :
    ln.leaving = { ln with activeLevel := true, activeStretch := true } := by
  cases ln
  cases h
  unfold Line.leaving
  dsimp only
  split
  next hp => exact absurd hp hs
  next hp => exact absurd hp ha
  all_goals rfl

end

theorem exec_lineLeavesIdleLevel_idle {s : State} {l : LineId} (h : (s.line l).activeLevel = false) :
    exec (.lineLeavesIdleLevel l) s = .next (s.setLine l (s.line l).leaving) :=
  if_neg (by rw [h]; exact nofun)

theorem exec_lineReturnsToIdleLevel_active {s : State} {l : LineId} (h : (s.line l).activeLevel = true) :
    exec (.lineReturnsToIdleLevel l) s = match (s.line l).state with
      | .busy t =>
        if t.phase = .receiving ∧ t.framingWait = true then .next (complete l (s.line l).atIdle t .discarding (.miss .malformed) s)
        else .next (s.setLine l (s.line l).atIdle)
      | .fault => .next (s.setLine l { (s.line l).atIdle with restStretch := true })
      | .off | .idle => .next (s.setLine l (s.line l).atIdle) :=
  if_pos h

/-- Settles O47: a level change acts on the stretch, and on the transaction, by the state of the line. -/
theorem lineLevelsAreWatched : Obligations.LineLevelsAreWatched := by
  intro l s
  refine ⟨fun hidle => ?_, fun hactive => ?_⟩
  · rw [exec_lineLeavesIdleLevel_idle hidle]
    exact ⟨fun h => by rw [leaving_off h], fun h => by rw [leaving_idle h], fun h => by rw [leaving_fault h],
      fun t ht => ⟨fun hp => by rw [leaving_sending ht hp], fun hp => by rw [leaving_awaiting ht hp],
        fun hs ha => by rw [leaving_later ht hs ha]⟩, if_neg (by rw [hidle]; exact nofun)⟩
  · rw [exec_lineReturnsToIdleLevel_active hactive]
    refine ⟨if_pos hactive, fun h => by rw [h]; rfl, fun t ht hp hf => ?_, fun hnf hb => ?_⟩
    · rw [ht]
      exact if_pos ⟨hp, hf⟩
    · cases h : (s.line l).state with
      | off => rfl
      | idle => rfl
      | fault => exact absurd h hnf
      | busy t =>
        refine if_neg ?_
        rintro ⟨hp, hf⟩
        rw [hb t h hp] at hf
        cases hf

end Sys2Proof.Machine
end

section
/-! The characters of a probe line's replies, and how a whole reply is judged (R123, R130 to R132). -/

namespace Sys2Proof.Machine

/-! ### The bits of a character (R123) -/

theorem inLsbOrder_inLsbOrder (order : BitOrder) (bits : BitVec 9) : inLsbOrder order (inLsbOrder order bits) = bits := by
  cases order with
  | lsbFirst => rfl
  | msbFirst => exact BitVec.reverse_reverse_eq

theorem markOf_dataBits (order : BitOrder) (mark : Bool) (value : Byte) : markOf order (dataBits order mark value) = mark := by
  unfold markOf dataBits
  rw [inLsbOrder_inLsbOrder, BitVec.getLsbD_cons, if_pos rfl]

theorem valueOf_dataBits (order : BitOrder) (mark : Bool) (value : Byte) : valueOf order (dataBits order mark value) = value := by
  unfold valueOf dataBits
  rw [inLsbOrder_inLsbOrder, BitVec.setWidth_cons]

theorem dataBits_markOf_valueOf (order : BitOrder) (bits : BitVec 9) : dataBits order (markOf order bits) (valueOf order bits) = bits := by
  have hwhole : BitVec.cons (markOf order bits) (valueOf order bits) = inLsbOrder order bits := by
    have hmsb : markOf order bits = (inLsbOrder order bits).msb := (BitVec.msb_eq_getLsbD_last _).symm
    rw [hmsb]
    exact BitVec.cons_msb_setWidth _
  unfold dataBits
  rw [hwhole, inLsbOrder_inLsbOrder]

theorem markOf_msbFirst (bits : BitVec 9) : markOf .msbFirst bits = bits.getLsbD 0 := by
  unfold markOf inLsbOrder
  rw [BitVec.getLsbD_reverse, BitVec.getMsbD_eq_getLsbD]
  rfl

theorem getLsbD_valueOf_lsbFirst (bits : BitVec 9) {k : Nat} (h : k < 8) : (valueOf .lsbFirst bits).getLsbD k = bits.getLsbD k := by
  unfold valueOf inLsbOrder
  rw [BitVec.getLsbD_setWidth, decide_eq_true h, Bool.true_and]

theorem getLsbD_valueOf_msbFirst (bits : BitVec 9) {k : Nat} (h : k < 8) :
    (valueOf .msbFirst bits).getLsbD k = bits.getLsbD (8 - k) := by
  unfold valueOf inLsbOrder
  rw [BitVec.getLsbD_setWidth, decide_eq_true h, Bool.true_and, BitVec.getLsbD_reverse, BitVec.getMsbD_eq_getLsbD,
    decide_eq_true (Nat.lt_succ_of_lt h), Bool.true_and]

/-! ### A character by its place in the reply (R130) -/

section
variable {t : Txn} {value : Byte}

theorem judgeCharacter_address (h : t.received.length = 0) (mark : Bool) :
    judgeCharacter t mark value = if mark = true ∧ value.toNat = t.address then .goesOn else .early .wrongAddress := by
  unfold judgeCharacter
  rw [h]

theorem judgeCharacter_marked (h : 0 < t.received.length) : judgeCharacter t true value = .early .malformed := by
  unfold judgeCharacter
  obtain ⟨n, hn⟩ := Nat.exists_eq_add_of_lt h
  rw [hn, Nat.zero_add]
  rfl

theorem judgeCharacter_length (h : t.received.length = 1) :
    judgeCharacter t false value = if value.toNat = t.expected then .goesOn else .early .malformed := by
  unfold judgeCharacter
  rw [h]
  rfl

theorem judgeCharacter_payload (h2 : 2 ≤ t.received.length) (h : t.received.length < t.expected + 2) :
    judgeCharacter t false value = .goesOn := by
  unfold judgeCharacter
  obtain ⟨n, hn⟩ := Nat.exists_eq_add_of_le' h2
  rw [hn] at h ⊢
  dsimp only
  rw [if_neg Bool.false_ne_true, if_neg (Nat.succ_ne_zero n), if_pos (by omega)]

theorem judgeCharacter_check (h : t.received.length = t.expected + 2) :
    judgeCharacter t false value = .whole (judgeReply t value) := by
  unfold judgeCharacter
  rw [h]
  dsimp only
  rw [if_neg Bool.false_ne_true, if_neg (Nat.succ_ne_zero _), if_neg (by omega)]

end

/-! ### The events of a reply -/

section
variable {s : State} {l : LineId} {t : Txn}

theorem exec_replyComplete (l : LineId) (bits : BitVec 9) (s : State) : exec (.replyComplete l bits) s = exec (.replyCharacter l bits) s := rfl

section
variable (h : (s.line l).state = .busy t) (hrec : t.receiving = true)
include h hrec

theorem exec_replyCharacter_receiving (bits : BitVec 9) :
    exec (.replyCharacter l bits) s = .next (receiveCharacter l (s.line l) t bits s) := by
  show execReplyCharacter l bits s = _
  unfold execReplyCharacter
  rw [h]
  exact if_pos hrec

theorem exec_replyFramingError_receiving : exec (.replyFramingError l) s = .next (s.setLine l { s.line l with
    activeLevel := true, activeStretch := true, state := .busy { t with framingWait := true } }) := by
  show execReplyFramingError l s = _
  unfold execReplyFramingError
  rw [h]
  exact if_pos hrec

theorem exec_replyGapTimeout_receiving : exec (.replyGapTimeout l) s =
    if t.received ≠ [] ∧ (s.line l).activeLevel = false then .next (complete l (s.line l) t .turnaround (.miss .malformed) s)
    else .next s := by
  show execReplyGapTimeout l s = _
  unfold execReplyGapTimeout
  rw [h]
  exact ite_congr (propext (by simp [hrec])) (fun _ => rfl) (fun _ => rfl)

end

/-- With no reply in reception the events of a reply do nothing. -/
theorem exec_reply_ignored (h : ∀ t, (s.line l).state = .busy t → t.phase = .receiving → t.framingWait = true) (bits : BitVec 9) :
    exec (.replyCharacter l bits) s = .next s ∧ exec (.replyFramingError l) s = .next s ∧ exec (.replyGapTimeout l) s = .next s := by
  show execReplyCharacter l bits s = _ ∧ execReplyFramingError l s = _ ∧ execReplyGapTimeout l s = _
  unfold execReplyCharacter execReplyFramingError execReplyGapTimeout
  cases hst : (s.line l).state with
  | off => exact ⟨rfl, rfl, rfl⟩
  | idle => exact ⟨rfl, rfl, rfl⟩
  | fault => exact ⟨rfl, rfl, rfl⟩
  | busy t =>
    have hnot : t.receiving = false := by
      rw [← Bool.not_eq_true, Txn.receiving_iff]
      rintro ⟨hp, hf⟩
      rw [h t hst hp] at hf
      cases hf
    dsimp only
    rw [hnot]
    exact ⟨rfl, rfl, rfl⟩

end

/-- Settles O48: a character is judged by its place, and a reply with no reception in progress takes none. -/
theorem replyCharactersAreJudged : Obligations.ReplyCharactersAreJudged := by
  refine ⟨?_, fun l bits s h => exec_reply_ignored h bits, fun order mark value bits => ⟨markOf_dataBits order mark value,
    valueOf_dataBits order mark value, dataBits_markOf_valueOf order bits, rfl, markOf_msbFirst bits,
    fun k hk => ⟨getLsbD_valueOf_lsbFirst bits hk, getLsbD_valueOf_msbFirst bits hk⟩⟩⟩
  intro l t bits mark value ln s hst hp hf hmark hvalue hln
  have hrec := t.receiving_iff.mpr ⟨hp, hf⟩
  rw [exec_replyCharacter_receiving hst hrec, exec_replyFramingError_receiving hst hrec, exec_replyGapTimeout_receiving hst hrec]
  unfold receiveCharacter
  rw [← hmark, ← hvalue]
  subst hln
  refine ⟨fun hlen => ⟨?_, fun h0 hbad => ?_⟩, ?_, rfl, fun hne hlow => if_pos ⟨hne, hlow⟩, fun h => if_neg ?_⟩
  · rintro (⟨h0, hm, hv⟩ | ⟨h1, hm, hv⟩ | ⟨h2, hm⟩)
    · rw [judgeCharacter_address h0, if_pos ⟨hm, hv⟩]
      rfl
    · rw [hm, judgeCharacter_length h1, if_pos hv]
      rfl
    · rw [hm, judgeCharacter_payload h2 hlen]
      rfl
  · rw [judgeCharacter_address h0, if_neg]
    · rfl
    · rintro ⟨hm, hv⟩
      obtain h | h := hbad
      · rw [hm] at h; cases h
      · exact h hv
  · rintro (⟨h0, hm⟩ | ⟨h1, hv⟩)
    · rw [hm, judgeCharacter_marked h0]
      rfl
    · cases mark with
      | true => rw [judgeCharacter_marked (by omega)]; rfl
      | false => rw [judgeCharacter_length h1, if_neg hv]; rfl
  · rintro ⟨hne, hlow⟩
    obtain h | h := h
    · exact hne h
    · rw [hlow] at h; cases h

/-! ### A whole reply (R132) -/

section
variable {t : Txn} {first check : Byte} {payload : List Byte} (hrec : t.received = first :: byte t.expected :: payload)
  (hcheck : crc8 (byte t.expected :: payload) = check)
include hrec hcheck

theorem judgeReply_heat {d : Nat} {x : Byte} (hc : t.command = .heat d) (hp : payload = [x]) :
    judgeReply t check = if x.toNat = d then .goodHeat else .miss .malformed := by
  subst hp
  unfold judgeReply
  rw [hrec, hc]
  refine (if_neg (Classical.not_not.mpr hcheck)).trans (ite_congr (propext ?_) (fun _ => rfl) (fun _ => rfl))
  simp

/-- A GOOD reply to READ gives the codes of its fields, where no C12 field is too large. -/
theorem judgeReply_read (hc : t.command = .read) : judgeReply t check =
    if t.cls = .c12 ∧ (fieldCodes t.cls payload).all (fun c => c < 4096) = false then .miss .malformed
    else .goodRead ((fieldCodes t.cls payload).head?.getD 0) ((fieldCodes t.cls payload).drop 1).head? := by
  unfold judgeReply
  rw [hrec, hc]
  exact if_neg (Classical.not_not.mpr hcheck)

end

theorem fieldCodes_wide {cls : ResClass} (h : cls ≠ .c8) (hi lo : Byte) (rest : List Byte) :
    fieldCodes cls (hi :: lo :: rest) = (256 * hi.toNat + lo.toNat) :: fieldCodes cls rest := by
  cases cls with
  | c8 => exact absurd rfl h
  | c12 => rfl
  | c16 => rfl

theorem fieldCodes_nil (cls : ResClass) : fieldCodes cls [] = [] := rfl

theorem field_lt_iff (hi lo : Byte) : 256 * hi.toNat + lo.toNat < 4096 ↔ hi.toNat < 16 := by
  have := lo.isLt
  omega

/-- Settles O49: the check is judged first, then the fields or the echo of the payload. -/
theorem wholeRepliesAreJudged : Obligations.WholeRepliesAreJudged := by
  refine ⟨fun l bits s => ⟨rfl, fun h => (exec_reply_ignored h bits).1⟩, ?_⟩
  intro l t bits first payload ln done s hst hp hf hrec hlen hmark hln hdone
  have hwhole : t.received.length = t.expected + 2 := by rw [hrec, List.length_cons, List.length_cons, hlen]
  have hrun : exec (.replyComplete l bits) s = .next (done (judgeReply t (valueOf (s.line l).order bits))) := by
    rw [exec_replyComplete, exec_replyCharacter_receiving hst (t.receiving_iff.mpr ⟨hp, hf⟩)]
    unfold receiveCharacter
    rw [hmark, judgeCharacter_check hwhole, hdone, hln]
    rfl
  rw [hrun]
  refine ⟨fun h => by rw [judgeReply_of_check_ne hrec h], fun h => ⟨fun d x hc hpay => ?_, fun x hc hcls hpay => ?_,
    fun x y hc hcls hpay => ?_, fun hi lo hc hcls hpay => ?_, fun hi lo hi' lo' hc hcls hpay => ?_⟩⟩
  · rw [judgeReply_heat hrec h hc hpay]
  · rw [judgeReply_read hrec h hc, hpay, hcls]
    rfl
  · rw [judgeReply_read hrec h hc, hpay, hcls]
    rfl
  · rw [judgeReply_read hrec h hc, hpay, fieldCodes_wide hcls, fieldCodes_nil]
    refine congrArg (fun r => Host.Outcome.next (done r)) (ite_congr (propext (and_congr_right fun _ => ?_)) (fun _ => rfl) (fun _ => rfl))
    have := field_lt_iff hi lo
    simp [this]
  · rw [judgeReply_read hrec h hc, hpay, fieldCodes_wide hcls, fieldCodes_wide hcls, fieldCodes_nil]
    refine congrArg (fun r => Host.Outcome.next (done r)) (ite_congr (propext (and_congr_right fun _ => ?_)) (fun _ => rfl) (fun _ => rfl))
    have := field_lt_iff hi lo
    have := field_lt_iff hi' lo'
    simp_all
    omega

end Sys2Proof.Machine
end

section
/-! The choice of the next poll (R143 to R145), and the entry into FAULT and the recovery (R137 to R139). -/

namespace Sys2Proof.Machine

/-! ### The slot of the next poll -/

theorem dueOn_iff_dueAt {s : State} {l : LineId} {i : SlotId} : dueOn s l i = true ↔ dueAt s l i := by
  rw [dueOn_iff]
  refine exists_congr fun r => and_congr_right fun _ => and_congr_right fun _ => ?_
  rw [schedulable_iff]
  exact ⟨fun ⟨⟨h1, h2⟩, hd⟩ => ⟨hd, h1, h2⟩, fun ⟨hd, h1, h2⟩ => ⟨⟨h1, h2⟩, hd⟩⟩

/-- In a list that rises by a measure, the first element with a property is the one whose measure is least. -/
theorem find?_eq_some_of_least {α : Type} {f : α → Nat} {p : α → Bool} {l : List α} (hl : l.Pairwise fun x y => f x < f y) {i : α}
    (hi : i ∈ l) (hp : p i = true) (hleast : ∀ j, p j = true → j ≠ i → f i < f j) : l.find? p = some i := by
  induction l with
  | nil => cases hi
  | cons x xs ih =>
    obtain ⟨hx, hxs⟩ := List.pairwise_cons.mp hl
    obtain rfl | hmem := List.mem_cons.mp hi
    · exact List.find?_cons_of_pos hp
    · have hxi : f x < f i := hx i hmem
      have hpx : ¬p x = true := fun h => Nat.lt_asymm hxi (hleast x h fun he => Nat.lt_irrefl _ (he ▸ hxi))
      rw [List.find?_cons_of_neg hpx]
      exact ih hxs hmem

theorem mem_ringOrder (last : Option SlotId) (i : SlotId) : i ∈ ringOrder last := by
  cases last with
  | none => exact List.mem_finRange i
  | some k =>
    simp only [ringOrder, List.mem_append, List.mem_filter, List.mem_finRange, true_and, decide_eq_true_eq]
    exact Nat.lt_or_ge k.val i.val

/-- The ring order goes by the place in the ring (R145). -/
theorem ringOrder_rises (last : Option SlotId) : (ringOrder last).Pairwise fun i j => ringPlace last i < ringPlace last j := by
  have hall : allSlots.Pairwise (· < ·) := List.pairwise_lt_finRange 96
  cases last with
  | none => exact hall
  | some k =>
    have hrise : ∀ {i j : SlotId}, i < j → (k < i ∨ j ≤ k) → ringPlace (some k) i < ringPlace (some k) j := fun {i j} hij h => by
      show (i.val + 95 - k.val) % 96 < (j.val + 95 - k.val) % 96
      have : i.val < j.val := hij
      have : k.val < i.val ∨ j.val ≤ k.val := h
      omega
    refine List.pairwise_append.mpr ⟨?_, ?_, fun i hi j hj => ?_⟩
    · refine (List.Pairwise.sublist List.filter_sublist hall).imp_of_mem fun {i j} hi _ hij => hrise hij (.inl ?_)
      exact of_decide_eq_true (List.mem_filter.mp hi).2
    · refine (List.Pairwise.sublist List.filter_sublist hall).imp_of_mem fun {i j} _ hj hij => hrise hij (.inr ?_)
      exact of_decide_eq_true (List.mem_filter.mp hj).2
    · have hki : k.val < i.val := of_decide_eq_true (List.mem_filter.mp hi).2
      have hjk : j.val ≤ k.val := of_decide_eq_true (List.mem_filter.mp hj).2
      show (i.val + 95 - k.val) % 96 < (j.val + 95 - k.val) % 96
      omega

theorem chosenSlot_eq_some {s : State} {l : LineId} {i : SlotId} (hi : dueAt s l i)
    (hleast : ∀ j, dueAt s l j → j ≠ i → ringPlace (s.line l).lastServed i < ringPlace (s.line l).lastServed j) :
    chosenSlot s l = some i :=
  find?_eq_some_of_least (ringOrder_rises _) (mem_ringOrder _ i) (dueOn_iff_dueAt.mpr hi) fun j hj => hleast j (dueOn_iff_dueAt.mp hj)

theorem chosenSlot_eq_none {s : State} {l : LineId} (h : ∀ i, ¬dueAt s l i) : chosenSlot s l = none :=
  List.find?_eq_none.mpr fun i _ hi => h i (dueOn_iff_dueAt.mp hi)

/-! ### The record of a poll (R128, R193) -/

theorem pollCommand_unarmed {s : State} {r : Slot} (h : r.armed = none) : pollCommand s r = .read := by
  unfold pollCommand
  rw [h]
  rfl

theorem pollCommand_armed {s : State} {r : Slot} (h : r.armed ≠ none) : pollCommand s r = .heat s.params.heatTime :=
  if_pos (Option.isSome_iff_ne_none.mpr h)

theorem pollCharacters_read {t : Txn} (h : t.command = .read) : t.pollCharacters = [(true, byte t.address), (false, 0x01)] := by
  unfold Txn.pollCharacters
  rw [h]

theorem pollCharacters_heat {t : Txn} {d : Nat} (h : t.command = .heat d) :
    t.pollCharacters = [(true, byte t.address), (false, 0x02), (false, byte d)] := by
  unfold Txn.pollCharacters
  rw [h]

theorem payloadLength_read (k : Kind) (c : ResClass) : payloadLength .read k c = (match k, c with
    | .surface, .c8 => 1
    | .surface, _ => 2
    | .air, .c8 => 2
    | .air, _ => 4) := by
  cases k <;> cases c <;> rfl

/-- Settles O45: the poll goes to the due slot that comes first in the ring. -/
theorem pollStartSendsToFirstInRing : Obligations.PollStartSendsToFirstInRing := by
  intro l s
  refine ⟨fun i r hidle hlevel hr hdue hleast => ?_, fun h => ?_⟩
  · refine ⟨startTxn s i r, ?_, rfl, rfl, rfl, rfl, rfl, rfl, rfl, rfl, fun h => ?_, fun h => ?_⟩
    · show execPollStart l s = _
      unfold execPollStart
      dsimp only
      rw [if_pos ⟨hidle, hlevel⟩, chosenSlot_eq_some hdue hleast]
      dsimp only
      rw [hr]
    · have hc : (startTxn s i r).command = .read := pollCommand_unarmed h
      refine ⟨hc, ?_, pollCharacters_read hc⟩
      show payloadLength (startTxn s i r).command r.kind r.cls = _
      rw [hc]
      exact payloadLength_read r.kind r.cls
    · have hc : (startTxn s i r).command = .heat s.params.heatTime := pollCommand_armed h
      refine ⟨hc, ?_, pollCharacters_heat hc⟩
      show payloadLength (startTxn s i r).command r.kind r.cls = _
      rw [hc]
      rfl
  · show execPollStart l s = _
    unfold execPollStart
    dsimp only
    split
    next hopen =>
      obtain ⟨hidle, hlevel⟩ := hopen
      obtain h | h | h := h
      · exact absurd hidle h
      · rw [hlevel] at h; cases h
      · rw [chosenSlot_eq_none h]
    next => rfl

/-! ### The entry into FAULT -/

/-- A transaction that a fault cuts hands on LINE_FAULT while it is in flight (R137). -/
theorem cutTransaction_busy (t : Txn) (s : State) : cutTransaction (.busy t) s =
    if t.phase = .sending ∨ t.phase = .awaiting ∨ t.phase = .receiving then handedOn t (.miss .lineFault) s else s := by
  unfold cutTransaction handedOn
  dsimp only
  by_cases hf : t.inFlight = true
  · rw [if_pos ((inFlight_iff t).mp hf), hf]
    cases t.orphan <;> rfl
  · rw [if_neg (fun h => hf ((inFlight_iff t).mpr h)), if_neg (by simp [hf])]

/-- What acts on each slot of a list in a free order does so once for each. -/
theorem inFreeOrder_eq_foldl (act : SlotId → State → State) (l : List SlotId) (s : State) : ∃ (order : List SlotId) (n : Nat),
    order.Perm l ∧ inFreeOrder act l s = order.foldl (fun s i => act i s) { s with freeCount := n } := by
  unfold inFreeOrder
  split
  · exact ⟨l, s.freeCount, .refl l, rfl⟩
  · exact ⟨freeOrder s.freeCount l, s.freeCount + 1, freeOrder_perm _ _, rfl⟩

theorem exec_lineFaultEntry_stretch {s : State} {l : LineId} (h : (s.line l).state = .idle ∨ ∃ t, (s.line l).state = .busy t)
    (hs : (s.line l).activeStretch = true) : exec (.lineFaultEntry l) s = .next (enterFault l (s.line l) s) := by
  show execLineFaultEntry l s = _
  unfold execLineFaultEntry
  obtain h | ⟨t, h⟩ := h
  · rw [h]; exact if_pos hs
  · rw [h]; exact if_pos hs

/-- Settles O50: the fault cuts the transaction and gives every due slot its miss; the rest stretch ends the fault. -/
theorem linesEnterFaultAndRecover : Obligations.LinesEnterFaultAndRecover := by
  intro l s
  refine ⟨fun u v hst hs hu hv => ?_, fun h => ?_, fun h hr => if_pos ⟨h, hr⟩, fun h => if_neg ?_⟩
  · have hcut : cutTransaction (s.line l).state u = v := by
      rw [hv]
      obtain h | ⟨t, h⟩ := hst
      · rw [h]; rfl
      · rw [h]; exact cutTransaction_busy t u
    have hrun : enterFault l (s.line l) s = inFreeOrder faultMiss (allSlots.filter (dueOn v l)) v := by
      rw [← hcut, hu]
      rfl
    obtain ⟨order, n, hperm, hfold⟩ := inFreeOrder_eq_foldl faultMiss (allSlots.filter (dueOn v l)) v
    refine ⟨order, n, hperm.nodup_iff.mpr ((List.nodup_finRange 96).filter _), fun i => ?_, ?_⟩
    · rw [hperm.mem_iff, List.mem_filter, dueOn_iff_dueAt]
      exact and_iff_right (List.mem_finRange i)
    · rw [exec_lineFaultEntry_stretch hst hs, hrun, hfold]
      rfl
  · show execLineFaultEntry l s = _
    unfold execLineFaultEntry
    cases hst : (s.line l).state with
    | off => rfl
    | fault => rfl
    | idle | busy =>
      obtain h | h | h := h
      · exact if_neg (by rw [h]; exact nofun)
      · rw [hst] at h; cases h
      · rw [hst] at h; cases h
  · rintro ⟨hf, hr⟩
    obtain h | h := h
    · exact h hf
    · rw [hr] at h; cases h

end Sys2Proof.Machine
end

section
/-! What an outcome that is handed on leaves of its slot, and the events that make a slot due (R83 to R91, R138, R143, R148 to R152). -/

namespace Sys2Proof.Machine

/-! ### Writing one slot -/

@[simp] theorem setSlot_setSlot (s : State) (i : SlotId) (r q : Option Slot) : (s.setSlot i r).setSlot i q = s.setSlot i q :=
  congrArg (fun v => { s with slots := v }) (Vector.set_set ..)

theorem setSlot_self {s : State} {i : SlotId} {r : Option Slot} (h : s.slot i = r) : s.setSlot i r = s := by
  subst h
  exact congrArg (fun v => { s with slots := v }) (Vector.set_getElem_self ..)

theorem emit_setSlot (b : NoticeBody) (i : SlotId) (r : Option Slot) (s : State) :
    (emit b s).setSlot i r = emit b (s.setSlot i r) := by
  unfold emit arrive State.setSlot
  dsimp only
  split
  · split <;> rfl
  · split <;> rfl

theorem onset_setSlot (src : AlertSource) (i : SlotId) (r : Option Slot) (s : State) :
    (onset src s).setSlot i r = onset src (s.setSlot i r) := rfl

/-- Advancing writes the slot's own record alone (R148). -/
theorem advance_eq {s : State} {i : SlotId} {x : Slot} (hx : s.slot i = some x) : advance i s = s.setSlot i (some (advanced s i x)) := by
  have hadv := slot_advance hx
  unfold advance at hadv ⊢
  rw [hx] at hadv ⊢
  dsimp only at hadv ⊢
  split at hadv
  next hs => rw [if_pos hs]; rw [slot_setSlot_same] at hadv; rw [hadv]
  next hs => rw [if_neg hs]; exact (setSlot_self hadv).symm

theorem advanced_of_probesOnly {s t : State} (h : ProbesOnly s t) (i : SlotId) (x : Slot) : advanced t i x = advanced s i x :=
  advanced_congr h.zones h.params h.timeBase i x

theorem advanced_heating {s : State} {i : SlotId} {r : Slot} (h : r.state = .heating ∨ r.state = .held) : advanced s i r = r := if_pos h

theorem advanced_nextDue {s : State} {i : SlotId} {r : Slot} (h : ¬(r.state = .heating ∨ r.state = .held)) :
    (advanced s i r).nextDue = r.lastPoll + BitVec.ofNat 32 (s.params.ticksOf (paceOf s i r)) := by
  unfold advanced
  rw [if_neg h]
  cases paceOf s i r <;> rfl

theorem writeLastPoll_eq {s : State} {i : SlotId} {r : Slot} (hr : s.slot i = some r) (at' : Time) :
    writeLastPoll i at' s = s.setSlot i (some { r with lastPoll := at' }) := by
  unfold writeLastPoll
  rw [hr]

/-! ### Misses (R86, R90, R91) -/

theorem min_succ_15 {n : Nat} (h : n ≤ 15) : (if n < 15 then n + 1 else n) = min (n + 1) 15 := by
  split <;> omega

theorem missed_eq {r : Slot} (h : r.misses ≤ 15) (o : ProbeOutcome) :
    r.missed o = { r with misses := min (r.misses + 1) 15, lastOutcome := o } := by
  unfold Slot.missed
  rw [min_succ_15 h]

section
variable {s : State} {i : SlotId} {r : Slot} (hr : s.slot i = some r)
include hr

/-- A miss at MISS_LIMIT makes a PENDING or LIVE slot LOST. -/
theorem handOutcome_lost {at' : Time} {o : ProbeOutcome} (hst : r.state = .pending ∨ r.state = .live)
    (hlim : s.params.missLimit ≤ (r.missed o).misses) : handOutcome i at' (.miss o) s = onset .lostAny (emit (.probeState i r.state .lost o)
      (s.setSlot i (some (advanced s i ({ r with lastPoll := at' }.missed o).lost)))) := by
  have htaken : takeMiss i o (writeLastPoll i at' s)
      = onset .lostAny (emit (.probeState i r.state .lost o) (s.setSlot i (some ({ r with lastPoll := at' }.missed o).lost))) := by
    rw [writeLastPoll_eq hr]
    unfold takeMiss
    rw [slot_setSlot_same]
    dsimp only
    rw [if_pos ⟨hst, hlim⟩, setSlot_setSlot]
  have hslot : (takeMiss i o (writeLastPoll i at' s)).slot i = some ({ r with lastPoll := at' }.missed o).lost := by
    rw [htaken]
    exact ((emit_noticesOnly _ _).slot i).trans (slot_setSlot_same _ _ _)
  have hprobes : ProbesOnly s (takeMiss i o (writeLastPoll i at' s)) := (writeLastPoll_probesOnly _ _ _).trans (takeMiss_probesOnly _ _ _)
  show advance i (takeMiss i o (writeLastPoll i at' s)) = _
  rw [advance_eq hslot, advanced_of_probesOnly hprobes, htaken, onset_setSlot, emit_setSlot, setSlot_setSlot]

/-- Any other miss is counted only. -/
theorem handOutcome_missed {at' : Time} {o : ProbeOutcome}
    (h : ¬((r.state = .pending ∨ r.state = .live) ∧ s.params.missLimit ≤ (r.missed o).misses)) :
    handOutcome i at' (.miss o) s = s.setSlot i (some (advanced s i ({ r with lastPoll := at' }.missed o))) := by
  have htaken : takeMiss i o (writeLastPoll i at' s) = s.setSlot i (some ({ r with lastPoll := at' }.missed o)) := by
    rw [writeLastPoll_eq hr]
    unfold takeMiss
    rw [slot_setSlot_same]
    dsimp only
    exact (if_neg h).trans (setSlot_setSlot _ _ _ _)
  show advance i (takeMiss i o (writeLastPoll i at' s)) = _
  rw [htaken, advance_eq (slot_setSlot_same _ _ _), advanced_of_probesOnly (setSlot_probesOnly _ _ _), setSlot_setSlot]

end

/-! ### Outcome and recomputation in one tick (R151, R152) -/

theorem ticksOf_eq_ite (p : Params) (c : Pace) : p.ticksOf c = if c = .fast then p.pollFast else p.pollSettled := by
  cases c <;> rfl

theorem add_ofNat_sub_toNat (t : Time) {n : Nat} (h : n ≤ 6000) : (t + BitVec.ofNat 32 n - t).toNat = n := by
  rw [BitVec.add_comm, BitVec.add_sub_cancel, BitVec.toNat_ofNat]
  exact Nat.mod_eq_of_lt (by omega)

/-- A slot just advanced, and then recomputed by new zones, is due at its last poll time plus the ticks of the new pace (R151). -/
theorem recomputed_advanced_nextDue {s v : State} {i : SlotId} {x : Slot} (hp : v.params = s.params) (ht : v.timeBase = s.timeBase)
    (hle : s.params.pollFast ≤ s.params.pollSettled) (hmax : s.params.pollSettled ≤ 6000)
    (hs : ¬(x.state = .heating ∨ x.state = .held)) (hf : pollInFlight v i (advanced s i x) = false) :
    (recomputed v i (advanced s i x)).nextDue = x.lastPoll + BitVec.ofNat 32 (s.params.ticksOf (paceOf v i (advanced s i x))) := by
  obtain ⟨hstate, -, hpace⟩ := advanced_fields s i x
  have hsched : ¬((advanced s i x).state = .heating ∨ (advanced s i x).state = .held) := by rwa [hstate]
  have hdue := advanced_nextDue (s := s) (i := i) hs
  have hlast : (advanced s i x).lastPoll = x.lastPoll := by unfold advanced; rw [if_neg hs]
  have hnow : (advanced s i x).advancedAt = some v.timeBase := by unfold advanced; rw [if_neg hs, ht]
  rw [← hpace hs] at hdue
  generalize advanced s i x = a at hdue hlast hnow hsched hf ⊢
  have hnew : newlyAdvanced v i a = true := by unfold newlyAdvanced; rw [hnow, hf]; simp
  unfold recomputed
  rw [if_neg hsched]
  split
  next hup =>
    obtain ⟨hset, hfast⟩ := hup
    rw [hfast]
    dsimp only
    rw [hset] at hdue
    rw [hdue, hlast, hp]
    have hticks : (x.lastPoll + BitVec.ofNat 32 (s.params.ticksOf .settled) - x.lastPoll).toNat = s.params.pollSettled :=
      add_ofNat_sub_toNat _ hmax
    rw [hticks]
    split
    · rfl
    · have heq : s.params.pollFast = s.params.pollSettled := by omega
      show _ + BitVec.ofNat 32 s.params.pollSettled = _ + BitVec.ofNat 32 s.params.pollFast
      rw [heq]
  next hup =>
    split
    · rw [advanced_nextDue hsched, hlast, hp]
    next hagain =>
      dsimp only
      rw [hdue]
      refine congrArg (fun n => x.lastPoll + BitVec.ofNat 32 n) ?_
      unfold advancesAgain at hagain
      rw [hnew, hp] at hagain
      cases ha : a.pace with
      | fast =>
        cases hv : paceOf v i a with
        | fast => rfl
        | settled =>
          rw [ha, hv] at hagain
          show s.params.pollFast = s.params.pollSettled
          simpa using hagain
      | settled =>
        cases hv : paceOf v i a with
        | fast => exact absurd ⟨ha, hv⟩ hup
        | settled => rfl

/-- With POLL_FAST equal to POLL_SETTLED a recomputation keeps the next-due time (R152). -/
theorem recomputed_nextDue_of_equal {s : State} (h : s.params.pollFast = s.params.pollSettled) (i : SlotId) (r : Slot) :
    (recomputed s i r).nextDue = r.nextDue := by
  have hagain : advancesAgain s i r = false := by unfold advancesAgain; rw [h]; simp
  unfold recomputed
  split
  · rfl
  · split
    · exact if_neg fun g => g.1 h
    · rw [if_neg (by rw [hagain]; exact nofun)]

theorem onFaultLine_eq_false {s : State} {i : SlotId} {r : Slot} (hr : s.slot i = some r) :
    onFaultLine s i = false ↔ (s.line r.line).state ≠ .fault := by
  rw [← Bool.not_eq_true, onFaultLine_of_slot hr]

theorem line_of_lines {s t : State} (h : t.lines = s.lines) (l : LineId) : t.line l = s.line l := by
  unfold State.line
  rw [h]

theorem pollInFlight_congr {s t : State} (h : t.lines = s.lines) {i : SlotId} {r q : Slot} (hq : q.line = r.line) :
    pollInFlight t i q = pollInFlight s i r := by
  unfold pollInFlight
  rw [hq, line_of_lines h]

/-- Settles O41: a miss is counted and at MISS_LIMIT the slot is LOST; an outcome and a recomputation agree in either order. -/
theorem missesAreCounted : Obligations.MissesAreCounted := by
  refine ⟨fun i r p q at' o s hr hle hpdef hqdef => ?_, fun i r at' rep zs s hr hunf hfs hmax w p hw hheat hheld => ?_,
    fun i r s hr hunf heq => ?_⟩
  · have hmissed : { r with lastPoll := at' }.missed o = p := by rw [missed_eq (r := { r with lastPoll := at' }) hle, hpdef]
    have hmisses : (r.missed o).misses = p.misses := by rw [← hmissed]; rfl
    have hlost : ({ r with lastPoll := at' }.missed o).lost = q := by rw [hmissed, hqdef]; rfl
    refine ⟨fun hst hlim => ?_, fun h => ?_⟩
    · rw [handOutcome_lost hr hst (hmisses ▸ hlim), hlost]
    · rw [handOutcome_missed hr, hmissed]
      rintro ⟨hst, hlim⟩
      rw [hmisses] at hlim
      obtain ⟨h1, h2⟩ | h := h
      · exact hst.elim h1 h2
      · exact Nat.not_le_of_lt h hlim
  · have hsched : ¬(p.state = .heating ∨ p.state = .held) := not_or.mpr ⟨hheat, hheld⟩
    have hwticks : w = s.params.ticksOf (paceOf { s with zones := zs } i p) := by rw [hw, ticksOf_eq_ite]
    rw [onFaultLine_eq_false hr] at hunf
    refine ⟨fun hf hp => ?_, fun hp => ?_⟩
    · obtain ⟨x, hlast, hline, hx⟩ := slot_handOutcome (at' := at') (rep := rep) hr
      have hprobes : ProbesOnly s (handOutcome i at' rep s) := handOutcome_probesOnly _ _ _ _
      have hlines := line_of_lines hprobes.lines
      generalize handOutcome i at' rep s = u at hp hx hprobes hlines
      obtain ⟨hstate, haline, -⟩ := advanced_fields s i x
      have hslot : ({ u with zones := zs } : State).slot i = some (advanced s i x) := hx
      have hunf' : onFaultLine { u with zones := zs } i = false := by
        rw [onFaultLine_eq_false hslot, haline, hline]
        show (u.line r.line).state ≠ .fault
        rwa [hlines]
      rw [recompute_unfaulted _ i _ hslot hunf', slot_setSlot_same] at hp
      cases hp
      rw [(recomputed_state _ _ _).1, hstate] at hsched
      have hidle : pollInFlight { u with zones := zs } i (advanced s i x) = false := by
        rw [pollInFlight_congr (s := s) (t := { u with zones := zs }) hprobes.lines (haline.trans hline), hf]
      rw [recomputed_advanced_nextDue (v := { u with zones := zs }) hprobes.params hprobes.timeBase hfs hmax hsched hidle, hlast, hwticks,
        paceOf_state _ i _ _ (recomputed_state _ _ _).1 (by rwa [hstate])]
      rfl
    · have hslot : ({ s with zones := zs } : State).slot i = some r := hr
      rw [recompute_unfaulted _ i _ hslot ((onFaultLine_eq_false hslot).mpr hunf)] at hp
      obtain ⟨x, hlast, -, hx⟩ := slot_handOutcome (i := i) (at' := at') (rep := rep)
        (s := ({ s with zones := zs } : State).setSlot i (some (recomputed { s with zones := zs } i r))) (slot_setSlot_same _ _ _)
      rw [hx, Option.some.injEq] at hp
      subst hp
      rw [advanced_of_probesOnly (setSlot_probesOnly _ _ _)] at hsched hwticks ⊢
      have hstate := (advanced_fields { s with zones := zs } i x).1
      rw [hstate] at hsched
      rw [advanced_nextDue hsched, hlast, hwticks, paceOf_state _ i _ _ hstate hsched]
  · rw [recompute_unfaulted s i r hr hunf, slot_setSlot_same]
    exact congrArg some (recomputed_nextDue_of_equal heq i r)

end Sys2Proof.Machine
end

section
/-! Due slots and heat ends, the good replies of a probe, its readings and the heater controller (R81 to R121, R143, R149). -/

namespace Sys2Proof.Machine

/-! ### SLOT_DUE and HEAT_END -/

theorem reached_iff (now t : Time) : reached now t ↔ liesAhead now t = false := by
  unfold reached liesAhead age
  rw [← Bool.not_eq_true, Bool.and_eq_true, decide_eq_true_eq, decide_eq_true_eq]

section
variable {s : State} {i : SlotId} {r : Slot} (hr : s.slot i = some r)
include hr

theorem exec_slotDue_of_slot : exec (.slotDue i) s =
    if r.schedulable = true ∧ r.due = false ∧ liesAhead s.timeBase r.nextDue = false
    then .next (missIfFaulted i (s.setSlot i (some { r with due := true }))) else .next s := by
  show execSlotDue i s = _
  unfold execSlotDue
  rw [hr]
  exact ite_congr (propext (by simp [and_assoc])) (fun _ => rfl) (fun _ => rfl)

theorem exec_heatEnd_of_time {t : Time} (ht : r.heatEnd = some t) : exec (.heatEnd i) s =
    if r.state = .heating ∧ liesAhead s.timeBase t = false then .next (endHeat i r s) else .next s := by
  show execHeatEnd i s = _
  unfold execHeatEnd
  rw [hr]
  dsimp only
  rw [ht]

theorem exec_heatEnd_of_none (ht : r.heatEnd = none) : exec (.heatEnd i) s = .next s := by
  show execHeatEnd i s = _
  unfold execHeatEnd
  rw [hr]
  dsimp only
  rw [ht]

end

theorem madePending_due (r : Slot) (now : Time) :
    r.madePending now = { r with state := .pending, pace := .fast, nextDue := now, due := true } := by
  have hnow : liesAhead now now = false := by unfold liesAhead age; rw [BitVec.sub_self]; rfl
  unfold Slot.madePending Slot.withNextDue
  rw [hnow]
  rfl

/-- Settles O40: a slot falls due, and a heat cycle ends, when its time is reached. -/
theorem slotsFallDueAndHeatsEnd : Obligations.SlotsFallDueAndHeatsEnd := by
  refine ⟨fun i s h => ?_, fun i r s hr => ⟨fun hd hreach hheat hheld => ?_, fun h => ?_, fun t u hst hend hreach hu => ?_, fun h => ?_⟩⟩
  · show execSlotDue i s = _ ∧ execHeatEnd i s = _
    unfold execSlotDue execHeatEnd
    rw [h]
    exact ⟨rfl, rfl⟩
  · have hs : r.schedulable = true := (schedulable_iff r).mpr ⟨hheat, hheld⟩
    rw [exec_slotDue_of_slot hr, if_pos ⟨hs, hd, (reached_iff _ _).mp hreach⟩]
    exact ⟨fun hf => congrArg _ (missIfFaulted_unfaulted (slot_setSlot_same s i (some { r with due := true })) hf),
      fun hf => congrArg _ (missIfFaulted_faulted (slot_setSlot_same s i (some { r with due := true })) hs rfl hf)⟩
  · rw [exec_slotDue_of_slot hr, if_neg]
    rintro ⟨hs, hd, hreach⟩
    obtain ⟨hheat, hheld⟩ := (schedulable_iff r).mp hs
    obtain h | h | h | h := h
    · rw [hd] at h; cases h
    · exact h ((reached_iff _ _).mpr hreach)
    · exact hheat h
    · exact hheld h
  · rw [exec_heatEnd_of_time hr hend, if_pos ⟨hst, (reached_iff _ _).mp hreach⟩]
    have hended : endHeat i r s = missIfFaulted i u := by
      unfold endHeat
      rw [madePending_due, hu, hst]
    have hu' : NoticesOnly (s.setSlot i (some { r with
        state := .pending, pace := .fast, nextDue := s.timeBase, due := true, heatEnd := none })) u := by
      rw [hu]; exact emit_noticesOnly _ _
    have hslot := (hu'.slot i).trans (slot_setSlot_same _ _ _)
    have hline : ∀ l, u.line l = s.line l := fun l => line_of_lines hu'.lines l
    rw [hended]
    refine ⟨fun hf => ?_, fun hf => ?_⟩
    · rw [missIfFaulted_unfaulted hslot (by rwa [hline])]
    · rw [missIfFaulted_faulted hslot rfl rfl (by rwa [hline]), hu'.timeBase]
      rfl
  · cases hend : r.heatEnd with
    | none => exact exec_heatEnd_of_none hr hend
    | some t =>
      rw [exec_heatEnd_of_time hr hend, if_neg]
      rintro ⟨hst, hreach⟩
      obtain h | h := h
      · exact h hst
      · exact h t hend ((reached_iff _ _).mpr hreach)

/-! ### Good replies -/

theorem afterReading_eq (st : ProbeState) : st.afterReading = if st = .pending ∨ st = .lost then .live else st := by
  cases st <;> rfl

/-- The notice of an accepted reading is that of a PENDING or LOST slot which becomes LIVE (R84, R90). -/
theorem noteChange_afterReading (i : SlotId) (st : ProbeState) (s : State) : noteChange i st st.afterReading s =
    if st = .pending ∨ st = .lost then emit (.probeState i st .live .good) s else s := by
  cases st <;> rfl

/-- A slot that is HEATING or HELD is not advanced (R148). -/
theorem advance_of_resting {s : State} {i : SlotId} {r : Slot} (hr : s.slot i = some r) (h : r.state = .heating ∨ r.state = .held) :
    advance i s = s := by
  rw [advance_eq hr, advanced_heating h, setSlot_self hr]

/-- A GOOD reply to READ is judged by the slot as it is before the outcome (R84, R85). -/
theorem takeGoodRead_polled {s : State} {i : SlotId} {r : Slot} (hr : s.slot i = some r) (at' : Time) (code : Nat) (rhCode : Option Nat) :
    takeGoodRead i code rhCode (writeLastPoll i at' s) = if plausible s r (calibrate s r code rhCode)
      then acceptReading i { r with lastPoll := at' } (calibrate s r code rhCode) (s.setSlot i (some { r with lastPoll := at' }))
      else takeMiss i .implausible (writeLastPoll i at' s) := by
  rw [writeLastPoll_eq hr]
  unfold takeGoodRead
  rw [slot_setSlot_same]
  rfl

/-- Settles O42: an accepted reading is stored, a rejected one is a miss, and a heat echo begins the heat cycle. -/
theorem goodRepliesAreTaken : Obligations.GoodRepliesAreTaken := by
  intro i r at' s hr
  refine ⟨fun code rhCode p u w rd hrd => ⟨fun hbad => ?_, fun hok hpdef hudef hwdef x hx => ?_⟩, fun hheld => ?_, fun hheld => ?_⟩
  · have htaken := takeGoodRead_polled hr at' code rhCode
    rw [← hrd, hbad] at htaken
    exact congrArg (advance i) htaken
  · have haccept : acceptReading i { r with lastPoll := at' } rd (s.setSlot i (some { r with lastPoll := at' })) = w := by
      have hp : { r with lastPoll := at' }.withReading rd = p := by
        rw [hpdef, ← afterReading_eq]
        rfl
      have hst : p.state = r.state.afterReading := by rw [hpdef, afterReading_eq]
      have hu : noteChange i r.state p.state ((s.setSlot i (some { r with lastPoll := at' })).setSlot i (some p)) = u := by
        rw [setSlot_setSlot, hudef, hst, noteChange_afterReading]
      have hk : p.kind = r.kind := by rw [hpdef]
      unfold acceptReading
      dsimp only
      rw [hp, hu, hk]
      exact hwdef.symm
    have htaken : takeGoodRead i code rhCode (writeLastPoll i at' s) = w := by
      rw [takeGoodRead_polled hr, ← hrd, if_pos hok, haccept]
    have hprobes : ProbesOnly s w := by
      rw [← htaken]
      exact (writeLastPoll_probesOnly _ _ _).trans (takeGoodRead_probesOnly _ _ _ _)
    show advance i (takeGoodRead i code rhCode (writeLastPoll i at' s)) = _
    rw [htaken, advance_eq hx, advanced_of_probesOnly hprobes]
  · have htaken : takeGoodHeat i (writeLastPoll i at' s) = s.setSlot i (some { r with lastPoll := at' }.heatGood) := by
      rw [writeLastPoll_eq hr]
      unfold takeGoodHeat
      rw [slot_setSlot_same]
      exact (if_pos hheld).trans (setSlot_setSlot _ _ _ _)
    show advance i (takeGoodHeat i (writeLastPoll i at' s)) = _
    rw [htaken]
    exact advance_of_resting (r := { r with lastPoll := at' }.heatGood) (slot_setSlot_same _ _ _) (.inr hheld)
  · have htaken : takeGoodHeat i (writeLastPoll i at' s) = emit (.probeState i r.state .heating .good)
        (s.setSlot i (some ({ r with lastPoll := at' }.heatGood.heatingUntil (heatEndTime s)))) := by
      rw [writeLastPoll_eq hr]
      unfold takeGoodHeat
      rw [slot_setSlot_same]
      refine (if_neg hheld).trans ?_
      rw [setSlot_setSlot]
      rfl
    show advance i (takeGoodHeat i (writeLastPoll i at' s)) = _
    rw [htaken]
    exact advance_of_resting (((emit_noticesOnly _ _).slot i).trans
      (slot_setSlot_same s i (some ({ r with lastPoll := at' }.heatGood.heatingUntil (heatEndTime s))))) (.inl rfl)

/-! ### Readings (R95 to R102) -/

theorem calibrateHumidity_eq (n : Nat) (o : Int) (x : Int) (hx : x = (n : Int) + o) :
    calibrateHumidity n o = if x < 0 then 0 else if 10000 < x then 10000 else x.toNat := by
  unfold calibrateHumidity
  rw [← hx]
  split
  · omega
  · split <;> omega

theorem inReadingRange_iff (t : Int) : inReadingRange t = true ↔ -4000 ≤ t ∧ t ≤ 8499 := by
  unfold inReadingRange
  rw [Bool.and_eq_true, decide_eq_true_eq, decide_eq_true_eq]

theorem passesStepTest_iff (s : State) (prior : Option Reading) (t : Int) : passesStepTest s prior t = true ↔
    ∀ old, prior = some old → (s.timeBase - old.stamp).toNat ≤ s.params.freshLimit → (t - old.temp).natAbs ≤ s.params.stepLimit := by
  unfold passesStepTest
  cases prior with
  | none => exact iff_of_true rfl fun _ h => nomatch h
  | some old =>
    simp only [Option.some.injEq, forall_eq', Bool.or_eq_true, Bool.not_eq_true', decide_eq_true_eq]
    unfold fresh age
    rw [decide_eq_false_iff_not]
    exact Decidable.imp_iff_not_or.symm

/-- Settles O43: the reading of raw codes and its acceptance. -/
theorem conditioningFollowsRules : Obligations.ConditioningFollowsRules := by
  refine ⟨fun c w code => ⟨?_, ?_, ?_⟩, fun s r code rhCode => ⟨rfl, rfl, fun hk => ?_, fun h x hk hh hx => ?_, fun rd => ?_⟩⟩
  · rintro rfl
    rfl
  · rintro rfl -
    cases w with
    | zero => exact congrArg (· + 0) (Nat.mul_comm code 256)
    | ones => exact congrArg (· + 255) (Nat.mul_comm code 256)
    | repeatTop => show code * 256 + code / 1 = 256 * code + code; omega
    | mid => exact congrArg (· + 128) (Nat.mul_comm code 256)
  · rintro rfl -
    cases w with
    | zero => exact congrArg (· + 0) (Nat.mul_comm code 16)
    | ones => exact congrArg (· + 15) (Nat.mul_comm code 16)
    | repeatTop => exact congrArg (· + code / 256) (Nat.mul_comm code 16)
    | mid => exact congrArg (· + 8) (Nat.mul_comm code 16)
  · unfold calibrate
    rw [hk]
  · unfold calibrate
    rw [hk, hh]
    exact congrArg some (calibrateHumidity_eq _ _ x hx)
  · unfold plausible
    rw [Bool.and_eq_true, inReadingRange_iff, passesStepTest_iff, and_assoc]

end Sys2Proof.Machine
end

section
/-! The heater controller (R109 to R114, R120). -/

namespace Sys2Proof.Machine

/-! ### The allowance rule (R111) -/

theorem serves_iff (s : State) (m : SlotId) : serves s m = true ↔ contribution s m ≠ none ∧ ∃ q, s.slot m = some q ∧ q.armed = none := by
  unfold serves
  rw [Bool.and_eq_true, Option.isSome_iff_ne_none]
  refine and_congr_right fun _ => ?_
  cases s.slot m with
  | none => exact iff_of_false Bool.false_ne_true fun ⟨_, h, _⟩ => nomatch h
  | some q => simp

/-- The zone names the slot in its air list and has no other member that serves it. -/
def Blocks (s : State) (i : SlotId) (z : ZoneId) : Prop := ∃ zr, s.zone z = some zr ∧ i ∈ zr.defn.air ∧ ¬servedWithout s i zr

theorem blocking_iff (s : State) (i : SlotId) (z : ZoneId) : (match s.zone z with
    | some r => r.defn.air.contains i && !(r.defn.air.any fun m => m != i && serves s m)
    | none => false) = true ↔ Blocks s i z := by
  unfold Blocks
  cases s.zone z with
  | none => exact iff_of_false Bool.false_ne_true fun ⟨_, h, _⟩ => nomatch h
  | some zr =>
    have hserved : (zr.defn.air.any fun m => m != i && serves s m) = true ↔ servedWithout s i zr := by
      rw [List.any_eq_true]
      refine exists_congr fun m => and_congr_right fun _ => ?_
      rw [Bool.and_eq_true, bne_iff_ne, serves_iff]
    simp [← hserved]

theorem blockingZone_eq_none {s : State} {i : SlotId} (h : ∀ z, ¬Blocks s i z) : blockingZone s i = none :=
  List.find?_eq_none.mpr fun z _ hz => h z ((blocking_iff s i z).mp hz)

theorem blockingZone_eq_some {s : State} {i : SlotId} {z : ZoneId} (hz : Blocks s i z) (hlow : ∀ y < z, ¬Blocks s i y) :
    blockingZone s i = some z :=
  find_finRange _ z ((blocking_iff s i z).mpr hz) fun y hy => Bool.eq_false_iff.mpr fun h => hlow y hy ((blocking_iff s i y).mp h)

/-- Whether a zone is served without a slot does not depend on the slot's own record. -/
theorem servedWithout_setSlot (s : State) (i : SlotId) (r : Option Slot) (zr : Zone) :
    servedWithout (s.setSlot i r) i zr ↔ servedWithout s i zr := by
  unfold servedWithout
  refine exists_congr fun m => and_congr_right fun _ => and_congr_right fun hm => ?_
  have hslot : (s.setSlot i r).slot m = s.slot m := slot_setSlot_other s r (Ne.symm hm)
  have hcon : contribution (s.setSlot i r) m = contribution s m := by
    unfold contribution
    rw [hslot]
    rfl
  rw [hslot, hcon]

theorem blocks_setSlot (s : State) (i : SlotId) (r : Option Slot) (z : ZoneId) : Blocks (s.setSlot i r) i z ↔ Blocks s i z := by
  refine exists_congr fun zr => ?_
  rw [servedWithout_setSlot]
  rfl

theorem not_blocks_of_served {s : State} {i : SlotId} {z : ZoneId}
    (h : ∀ zr, s.zone z = some zr → i ∈ zr.defn.air → servedWithout s i zr) : ¬Blocks s i z :=
  fun ⟨zr, hz, hi, hn⟩ => hn (h zr hz hi)

/-! ### What the controller does with a humidity -/

theorem saturated_eq {r : Slot} (h : r.run ≤ 15) : r.saturated = { r with run := min (r.run + 1) 15 } := by
  unfold Slot.saturated
  rw [min_succ_15 h]

section
variable {s : State} {i : SlotId} {r : Slot} {h : Nat} (hr : s.slot i = some r)
include hr

theorem heaterSees_below (hh : h < s.params.satLimit) : heaterSees i h s = s.setSlot i (some r.unsaturated) := by
  unfold heaterSees
  rw [hr]
  exact if_neg (Nat.not_le_of_lt hh)

theorem heaterSees_unchanged (hh : s.params.satLimit ≤ h) (hn : r.armed ≠ none ∨ r.saturated.run < s.params.satCount) :
    heaterSees i h s = s.setSlot i (some r.saturated) := by
  unfold heaterSees
  rw [hr]
  refine (if_pos hh).trans (if_neg ?_)
  rintro ⟨harmed, hrun⟩
  obtain hn | hn := hn
  · exact hn (Option.isNone_iff_eq_none.mp harmed)
  · exact Nat.not_le_of_lt hn hrun

/-- A saturated, unarmed slot whose run is long enough is armed or deferred (R110). -/
theorem heaterSees_tries (hh : s.params.satLimit ≤ h) (harmed : r.armed = none) (hrun : s.params.satCount ≤ r.saturated.run) :
    heaterSees i h s = tryArm i r.saturated (s.setSlot i (some r.saturated)) := by
  unfold heaterSees
  rw [hr]
  exact (if_pos hh).trans (if_pos ⟨Option.isNone_iff_eq_none.mpr harmed, hrun⟩)

end

theorem tryArm_allowed {s : State} {i : SlotId} (h : ∀ z, ¬Blocks s i z) (r p : Slot) :
    tryArm i r (s.setSlot i (some p)) = s.setSlot i (some { r with armed := some .rule }) := by
  unfold tryArm
  rw [blockingZone_eq_none fun z hz => h z ((blocks_setSlot s i _ z).mp hz)]
  exact setSlot_setSlot _ _ _ _

theorem tryArm_blocked {s : State} {i : SlotId} {z : ZoneId} (hz : Blocks s i z) (hlow : ∀ y < z, ¬Blocks s i y) (r p : Slot) :
    tryArm i r (s.setSlot i (some p)) = if r.deferred then s.setSlot i (some p)
      else emit (.heatDeferred i z) (s.setSlot i (some { r with deferred := true })) := by
  unfold tryArm
  rw [blockingZone_eq_some ((blocks_setSlot s i _ z).mpr hz) fun y hy h => hlow y hy ((blocks_setSlot s i _ y).mp h)]
  dsimp only
  rw [setSlot_setSlot]

/-- Settles O44: a saturated run arms the slot where every zone is served without it, and defers it where one is not. -/
theorem heaterControllerArmsOrDefers : Obligations.HeaterControllerArmsOrDefers := by
  intro i r p h s hr hle hp
  have hsat : r.saturated = p := by rw [saturated_eq hle, hp]
  refine ⟨fun hlow => heaterSees_below hr hlow, fun hh hn => ?_, fun hh harmed hrun => ⟨fun hserved => ?_, fun z zr hz hi hn hfirst => ?_⟩⟩
  · rw [heaterSees_unchanged hr hh (by rwa [hsat]), hsat]
  · rw [heaterSees_tries hr hh harmed (by rwa [hsat]), hsat, tryArm_allowed fun z => not_blocks_of_served (hserved z)]
  · rw [heaterSees_tries hr hh harmed (by rwa [hsat]), hsat,
      tryArm_blocked ⟨zr, hz, hi, hn⟩ fun y hy => not_blocks_of_served (hfirst y hy)]
    have hdef : p.deferred = r.deferred := by rw [hp]
    rw [hdef]
    exact ⟨fun hd => if_pos hd, fun hd => if_neg (by rw [hd]; exact nofun)⟩

end Sys2Proof.Machine
end

section
/-! The front of the queue of commands, the notices and alert lines, and the events of time that need no completion
(R20, R41, R154 to R164, R181). -/

namespace Sys2Proof.Machine

/-- Settles O1: a step takes the front command off the queue and runs it. -/
theorem stepRunsFrontCommand : Obligations.StepRunsFrontCommand := by
  refine ⟨fun c rest s h => ?_, fun s h => ?_⟩
  · unfold step
    rw [h]
  · unfold step
    rw [h]

/-! ### Notices (R154 to R158) -/

/-- Settles O30: an arrival joins the tail, or goes by QUEUE_POLICY at a full queue. -/
theorem noticesArriveInOrder : Obligations.NoticesArriveInOrder := by
  intro body s
  refine ⟨fun h => if_pos h, fun h hp => ?_, fun h hp => ?_⟩
  · refine (if_neg (Nat.not_lt.mpr h)).trans ?_
    rw [hp]
  · refine (if_neg (Nat.not_lt.mpr h)).trans ?_
    rw [hp]

/-! ### Alert sources and lines (R162 to R164) -/

theorem onOnset_latch (src : AlertSource) (a : AlertLine) :
    (a.onOnset src).latch = (a.latch || (a.mode == .latched && a.routed.getLsbD src.bit)) := by
  unfold AlertLine.onOnset
  split
  next h => rw [h.1, show a.routed.getLsbD src.bit = true from h.2]; simp
  next h =>
    have hn : (a.mode == .latched && a.routed.getLsbD src.bit) = false := by
      rw [← Bool.not_eq_true, Bool.and_eq_true, beq_iff_eq]
      exact h
    rw [hn, Bool.or_false]

theorem onOnset_eq (src : AlertSource) (a : AlertLine) : a.onOnset src = { a with latch := (a.onOnset src).latch } := by
  unfold AlertLine.onOnset
  split <;> rfl

theorem someZone_iff (s : State) (p : ZoneState → Bool) : someZone s p = true ↔ ∃ z r, s.zone z = some r ∧ p r.state = true := by
  unfold someZone
  rw [List.any_eq_true]
  refine exists_congr fun z => ?_
  rw [and_iff_right (List.mem_finRange z)]
  cases s.zone z with
  | none => exact iff_of_false Bool.false_ne_true fun ⟨_, h, _⟩ => nomatch h
  | some r => simp

theorem someLost_iff (s : State) : someLost s = true ↔ ∃ i r, s.slot i = some r ∧ r.state = .lost := by
  unfold someLost
  rw [List.any_eq_true]
  refine exists_congr fun i => ?_
  rw [and_iff_right (List.mem_finRange i)]
  cases s.slot i with
  | none => exact iff_of_false Bool.false_ne_true fun ⟨_, h, _⟩ => nomatch h
  | some r => simp

theorem someFault_iff (s : State) : someFault s = true ↔ ∃ l, (s.line l).state = .fault := by
  unfold someFault
  rw [List.any_eq_true]
  refine exists_congr fun l => ?_
  rw [and_iff_right (List.mem_finRange l), beq_iff_eq]

section
variable (st : ZoneState)

theorem covers_blindAny : AlertSource.covers .blindAny st = true ↔ st = .blind := by
  cases st with
  | blind => simp [AlertSource.covers]
  | level l => simp [AlertSource.covers]

theorem covers_dewAny : AlertSource.covers .dewAny st = true ↔ st = .level .dew := by
  cases st with
  | blind => simp [AlertSource.covers]
  | level l => cases l <;> simp [AlertSource.covers]

theorem covers_alertAny : AlertSource.covers .alertAny st = true ↔ st = .level .dew ∨ st = .level .alert := by
  cases st with
  | blind => simp [AlertSource.covers]
  | level l => cases l <;> simp [AlertSource.covers]

theorem covers_watchAny : AlertSource.covers .watchAny st = true ↔ st = .level .dew ∨ st = .level .alert ∨ st = .level .watch := by
  cases st with
  | blind => simp [AlertSource.covers]
  | level l => cases l <;> simp [AlertSource.covers]

end

theorem mem_allAlertSources (src : AlertSource) : src ∈ allAlertSources := by
  cases src <;> decide

/-- The condition of a zone source holds when a zone is in a state that the source covers. -/
theorem conditionHolds_of_covers {s : State} {src : AlertSource} {p : ZoneState → Prop} (hc : conditionHolds s src = someZone s src.covers)
    (hp : ∀ st, src.covers st = true ↔ p st) : conditionHolds s src = true ↔ ∃ z r, s.zone z = some r ∧ p r.state := by
  rw [hc, someZone_iff]
  exact exists_congr fun z => exists_congr fun r => and_congr_right fun _ => hp r.state

/-- Settles O31: onsets set the latches that route them, and the lines follow mode, latch and conditions. -/
theorem alertLinesFollowSources : Obligations.AlertLinesFollowSources := by
  intro src a s
  refine ⟨onOnset_latch src s.alertA, onOnset_latch src s.alertB, ⟨(s.alertA.onOnset src).latch, (s.alertB.onOnset src).latch, ?_⟩,
    fun h => ?_, fun h => ?_, someLost_iff s, someFault_iff s,
    decide_eq_true_iff, conditionHolds_of_covers rfl covers_blindAny, conditionHolds_of_covers rfl covers_dewAny,
    conditionHolds_of_covers rfl covers_alertAny, conditionHolds_of_covers rfl covers_watchAny, rfl⟩
  · show onset src s = { s with alertA := { s.alertA with latch := (s.alertA.onOnset src).latch }
                                alertB := { s.alertB with latch := (s.alertB.onOnset src).latch } }
    rw [← onOnset_eq, ← onOnset_eq]
    rfl
  · unfold alertAsserted
    rw [h]
  · unfold alertAsserted
    rw [h]
    dsimp only
    rw [List.any_eq_true]
    refine exists_congr fun k => ?_
    rw [and_iff_right (mem_allAlertSources k), Bool.and_eq_true]
    rfl

/-! ### Ticks and timers (R20, R181) -/

/-- An expired zone joins the due queue, and its evaluation starts at once with an idle evaluator. -/
theorem exec_zoneTimerExpiry_reached {s : State} {z : ZoneId} {r : Zone} {t : Time} (hz : s.zone z = some r) (ht : r.expiry = some t)
    (hr : reached s.timeBase t) : exec (.zoneTimerExpiry z) s
      = .next (joinDueQueue z (s.setZone z (some { r with expiry := none, dueMark := true }))) := by
  show execZoneTimerExpiry z s = _
  unfold execZoneTimerExpiry
  rw [hz]
  dsimp only
  rw [ht]
  exact if_neg (by rw [(reached_iff _ _).mp hr]; exact nofun)

theorem setZone_setZone (s : State) (z : ZoneId) (r q : Option Zone) : (s.setZone z r).setZone z q = s.setZone z q :=
  congrArg (fun v => { s with zones := v }) (Vector.set_set ..)

/-- Settles O32: a tick counts one, and a reached timer puts its zone into the cycle. -/
theorem ticksAndTimerExpiries : Obligations.TicksAndTimerExpiries := by
  refine ⟨fun s => rfl, fun z s => ⟨fun r t hz ht hr => ?_, fun h => ?_⟩⟩
  · rw [exec_zoneTimerExpiry_reached hz ht hr]
    refine ⟨fun hbusy => ?_, fun hidle hq => ?_⟩
    · obtain ⟨c, hc⟩ := Option.ne_none_iff_exists'.mp hbusy
      exact congrArg _ (takeHead_busy (s := enqueue z (s.setZone z (some { r with expiry := none, dueMark := true }))) hc)
    · have hqueue : (enqueue z (s.setZone z (some { r with expiry := none, dueMark := true }))).dueQueue = z :: [] := by
        show s.dueQueue ++ [z] = [z]
        rw [hq]
        rfl
      have htake := takeHead_take (s := enqueue z (s.setZone z (some { r with expiry := none, dueMark := true }))) hidle hqueue
        (zone_setZone_same _ _ _)
      have hset := setZone_setZone s z (some { r with expiry := none, dueMark := true }) (some { r with expiry := none, dueMark := false })
      refine congrArg _ (htake.trans ?_)
      exact congrArg (fun v : State => { v with dueQueue := [], current := some (startedFor s z r.defn) }) hset
  · show execZoneTimerExpiry z s = _
    unfold execZoneTimerExpiry
    cases hz : s.zone z with
    | none => rfl
    | some r =>
      dsimp only
      cases ht : r.expiry with
      | none => rfl
      | some t =>
        have hahead : liesAhead s.timeBase t = true := by
          rw [← Bool.not_eq_false, ← reached_iff]
          exact h r t hz ht
        exact if_pos hahead

/-! ### A discarded evaluation (R12, R41) -/

theorem swapPending_none {s : State} (h : ∀ j, s.tables.stateOf j ≠ .pending) : swapPending s = s := by
  unfold swapPending
  rw [pendingBank_eq_none.mpr h]

theorem swapPending_some {s : State} {k old : BankId} (hk : ∀ j, s.tables.stateOf j = .pending ↔ j = k)
    (hold : ∀ j, s.tables.stateOf j = .active ↔ j = old) : swapPending s = swapped k old s := by
  unfold swapPending
  rw [pendingBank_eq_some hk]
  dsimp only
  rw [activeBank_eq hold]
  rfl

theorem emit_setCurrent (b : NoticeBody) (s : State) (c : Option Current) :
    emit b { s with current := c } = { emit b s with current := c } := by
  unfold emit arrive
  dsimp only
  split
  · split <;> rfl
  · split <;> rfl

theorem swapped_current (k old : BankId) (s : State) (c : Option Current) :
    swapped k old { s with current := c } = { swapped k old s with current := c } :=
  emit_setCurrent _ { s with tables := (s.tables.setState old .standby).setState k .active } c

theorem exec_evaluationCompletion {s : State} {c : Current} (h : s.current = some c) :
    exec .evaluationCompletion s = .next (completeEvaluation c s) := by
  show execEvaluationCompletion s = _
  unfold execEvaluationCompletion
  rw [h]

/-- Settles O35: a discarded evaluation leaves a PENDING bank to be swapped in and the queue's head to be taken. -/
theorem discardedCompletionWritesNothing : Obligations.DiscardedCompletionWritesNothing := by
  intro s
  refine ⟨fun h => ?_, fun c u hc hz hu => ?_⟩
  · show execEvaluationCompletion s = _
    unfold execEvaluationCompletion
    rw [h]
  · have hswap : swapPending { s with current := none } = { u with current := none } := by
      obtain ⟨hn, rfl⟩ | ⟨k, old, hk, hold, rfl⟩ := hu
      · exact swapPending_none (s := { u with current := none }) hn
      · rw [swapPending_some (s := { s with current := none }) hk hold, swapped_current]
    have hkept : u.dueQueue = s.dueQueue ∧ ∀ z, u.zone z = s.zone z := by
      obtain ⟨-, rfl⟩ | ⟨k, old, -, -, rfl⟩ := hu
      · exact ⟨rfl, fun _ => rfl⟩
      · have hn := emit_noticesOnly (.tableSwap k old) { s with tables := (s.tables.setState old .standby).setState k .active }
        exact ⟨hn.dueQueue, hn.zone⟩
    have hrun : exec .evaluationCompletion s = .next (takeHead { u with current := none }) := by
      rw [exec_evaluationCompletion hc, ← hswap]
      unfold completeEvaluation completeFor
      rw [hz]
      rfl
    rw [hrun]
    refine ⟨fun hq => congrArg _ (takeHead_empty (s := { u with current := none }) (hkept.1.trans hq)), fun y rest p hq hy => ?_⟩
    exact congrArg _ (takeHead_take (s := { u with current := none }) rfl (hkept.1.trans hq) ((hkept.2 y).trans hy))

end Sys2Proof.Machine
end

section
/-! From readings to margin (R25 to R32), and qualification by the runs (R34 to R39). -/

namespace Sys2Proof.Machine

/-! ### Contributors -/

theorem contribution_eq_some {s : State} {i : SlotId} {x : Sample} : contribution s i = some x ↔ ∃ r rd, s.slot i = some r ∧ r.state = .live
    ∧ r.reading = some rd ∧ (s.timeBase - rd.stamp).toNat ≤ s.params.freshLimit ∧ x = { temp := rd.temp, rh := rd.rh } := by
  constructor
  · intro h
    unfold contribution at h
    cases hr : s.slot i with
    | none => rw [hr] at h; cases h
    | some r =>
      rw [hr] at h
      dsimp only at h
      cases hrd : r.reading with
      | none => rw [hrd] at h; cases h
      | some rd =>
        rw [hrd] at h
        dsimp only at h
        split at h
        next hc =>
          cases h
          exact ⟨r, rd, rfl, hc.1, hrd, of_decide_eq_true hc.2, rfl⟩
        next => cases h
  · rintro ⟨r, rd, hr, hlive, hrd, hage, rfl⟩
    unfold contribution
    rw [hr]
    dsimp only
    rw [hrd]
    exact if_pos ⟨hlive, decide_eq_true hage⟩

/-! ### The first of the greatest -/

/-- The first of the entries with the greatest key: those before it are below, those after it no greater. -/
theorem firstBest_split {α : Type} (key : α → Int) (best : α) (l : List α) : ∃ before after,
    best :: l = before ++ firstBest key best l :: after ∧ (∀ p ∈ before, key p < key (firstBest key best l))
      ∧ ∀ p ∈ after, key p ≤ key (firstBest key best l) := by
  induction l generalizing best with
  | nil => exact ⟨[], [], rfl, fun _ h => (nomatch h), fun _ h => (nomatch h)⟩
  | cons x xs ih =>
    unfold firstBest
    split
    next hx =>
      obtain ⟨before, after, heq, hbefore, hafter⟩ := ih x
      have hle : key x ≤ key (firstBest key x xs) := by
        have hmem : x ∈ before ++ firstBest key x xs :: after := heq ▸ List.mem_cons_self
        obtain h | h := List.mem_append.mp hmem
        · exact Int.le_of_lt (hbefore x h)
        · obtain h | h := List.mem_cons.mp h
          · exact Int.le_of_eq (congrArg key h)
          · exact hafter x h
      refine ⟨best :: before, after, by rw [heq]; rfl, fun p hp => ?_, hafter⟩
      obtain rfl | hp := List.mem_cons.mp hp
      · exact Int.lt_of_lt_of_le hx hle
      · exact hbefore p hp
    next hx =>
      obtain ⟨before, after, heq, hbefore, hafter⟩ := ih best
      have hxb : key x ≤ key best := Int.not_lt.mp hx
      cases before with
      | nil =>
        obtain ⟨hbest, hxs⟩ := List.cons.inj heq
        refine ⟨[], x :: after, by rw [← hbest, hxs]; rfl, fun _ h => (nomatch h), fun p hp => ?_⟩
        obtain rfl | hp := List.mem_cons.mp hp
        · rwa [← hbest]
        · exact hafter p hp
      | cons b before =>
        obtain ⟨rfl, hxs⟩ := List.cons.inj heq
        have hbest := hbefore best List.mem_cons_self
        refine ⟨best :: x :: before, after, congrArg (fun l => best :: x :: l) hxs, fun p hp => ?_, hafter⟩
        obtain rfl | hp := List.mem_cons.mp hp
        · exact hbest
        · obtain rfl | hp := List.mem_cons.mp hp
          · exact Int.lt_of_le_of_lt hxb hbest
          · exact hbefore p (List.mem_cons_of_mem _ hp)

/-! ### The outcome of an evaluation -/

theorem evaluate_blind {es : List Entry} {c : Current} (h : contributors c.air = [] ∨ contributors c.surface = []) : evaluate es c = none := by
  unfold evaluate
  obtain h | h := h
  · rw [h]; rfl
  · rw [h]; split <;> trivial

theorem evaluate_level {es : List Entry} {c : Current} {a b : SlotId × Sample} {as bs : List (SlotId × Sample)}
    (ha : contributors c.air = a :: as) (hb : contributors c.surface = b :: bs) : evaluate es c =
      (let wettest := firstBest DewPoint.value (dewPointOf es a.1 a.2) (as.map fun p => dewPointOf es p.1 p.2)
       let coldest := firstBest (fun p => -p.2.temp) b bs
       some ({ dewPoint := wettest.value, coldest := coldest.2.temp, margin := clampMargin (coldest.2.temp - wettest.value)
               airSlot := wettest.slot, surfaceSlot := coldest.1 },
             ((a :: as).map fun p => dewPointOf es p.1 p.2).any DewPoint.clamped)) := by
  unfold evaluate
  rw [ha, hb]
  rfl

/-- Settles O36: the contributors of a snapshot, and the highest dew point against the lowest surface temperature. -/
theorem evaluationFindsMargin : Obligations.EvaluationFindsMargin := by
  refine ⟨fun s i x => contribution_eq_some, fun es c airs surfaces vapour dew hairs hsurfaces hvapour hdew => ?_⟩
  have hairs' : contributors c.air = airs := hairs.symm
  have hsurfaces' : contributors c.surface = surfaces := hsurfaces.symm
  refine ⟨fun h => evaluate_blind (by rwa [hairs', hsurfaces']), fun ha hs => ?_⟩
  obtain ⟨a, as, rfl⟩ := List.exists_cons_of_ne_nil ha
  obtain ⟨b, bs, rfl⟩ := List.exists_cons_of_ne_nil hs
  refine ⟨_, _, evaluate_level hairs' hsurfaces', ?_, ?_, rfl, ?_⟩
  · obtain ⟨before, after, heq, hbefore, hafter⟩ :=
      firstBest_split DewPoint.value (dewPointOf es a.1 a.2) (as.map fun p => dewPointOf es p.1 p.2)
    generalize firstBest DewPoint.value (dewPointOf es a.1 a.2) (as.map fun p => dewPointOf es p.1 p.2) = w at heq hbefore hafter ⊢
    rw [← List.map_cons (f := fun p : SlotId × Sample => dewPointOf es p.1 p.2)] at heq
    obtain ⟨before', rest, hsplit, rfl, hrest⟩ := List.map_eq_append_iff.mp heq
    obtain ⟨p, after', rfl, rfl, rfl⟩ := List.map_eq_cons_iff.mp hrest
    have hval : ∀ q : SlotId × Sample, (dewPointOf es q.1 q.2).value = dew q.2 := fun q => by rw [hdew, hvapour]; rfl
    refine ⟨before', p.2, after', hsplit, hval p, fun q hq => ?_, fun q hq => ?_⟩
    · rw [← hval q]
      exact hbefore _ (List.mem_map_of_mem hq)
    · rw [← hval q]
      exact hafter _ (List.mem_map_of_mem hq)
  · obtain ⟨before, after, heq, hbefore, hafter⟩ := firstBest_split (fun p : SlotId × Sample => -p.2.temp) b bs
    exact ⟨before, _, after, heq, rfl, fun p hp => Int.lt_of_neg_lt_neg (hbefore p hp), fun p hp => Int.le_of_neg_le_neg (hafter p hp)⟩
  · rw [List.any_map, List.any_eq_true]
    refine exists_congr fun p => and_congr_right fun _ => ?_
    rw [hvapour]
    exact Bool.or_eq_true_iff

/-! ### Qualification -/

/-- Settles O38: the state and runs after each outcome. -/
theorem qualificationFollowsRuns : Obligations.QualificationFollowsRuns := by
  intro d r st raw release m hraw hrelease hrise hfall
  subst hraw hrelease
  refine ⟨fun h => ?_, fun h => ?_, fun h => ?_, fun h hup => ?_, fun h hraw hrel => ?_, fun h hraw hrel => ?_⟩
  · unfold qualify; rw [h]; rfl
  · unfold qualify; rw [h]; rfl
  · unfold qualify; rw [h]
  · obtain ⟨hnone, hsome⟩ := carriedLevel_cases Level.lower (rawLevel d m) hrise
    refine ⟨carriedLevel Level.lower r.riseCount r.floor (rawLevel d m), hnone, hsome, ?_⟩
    unfold qualify
    rw [h]
    exact if_pos hup
  · obtain ⟨hnone, hsome⟩ := carriedLevel_cases Level.higher (releaseLevel d m) hfall
    refine ⟨carriedLevel Level.higher r.fallCount r.ceiling (releaseLevel d m), hnone, hsome, ?_⟩
    unfold qualify
    rw [h]
    exact (if_neg (Nat.not_lt.mpr hraw)).trans (if_pos hrel)
  · unfold qualify
    rw [h]
    exact (if_neg (Nat.not_lt.mpr hraw)).trans (if_neg (Nat.not_lt.mpr hrel))

end Sys2Proof.Machine
end

section
/-! ZONE_DEFINE and ZONE_CLOSE at an IDLE part, and what the recomputation of their members leaves (R7 to R14, R23, R24, R150). -/

namespace Sys2Proof.Machine

/-! ### The recomputation of members, seen from the state before -/

theorem SameForProbes.symm {x y : State} (h : SameForProbes x y) : SameForProbes y x :=
  ⟨h.slots.symm, h.params.symm, h.time.symm, h.lines.symm, h.notices.symm, h.alertA.symm, h.alertB.symm, fun z => (h.zones z).symm⟩

/-- Whatever agrees with the state after for the slots, lines and paces is recomputed to what the event says. -/
theorem membersRecomputed_of {s t w : State} {d : ZoneDef} (hslots : w.slots = s.slots) (hparams : w.params = s.params)
    (htime : w.timeBase = s.timeBase) (hlines : w.lines = s.lines) (hzones : ∀ y, paceKey (w.zone y) = paceKey (t.zone y))
    (ht : t.slots = (recomputeMembers d.members w).slots) : MembersRecomputed s t d := by
  have hslot : ∀ i, w.slot i = s.slot i := fun i => by unfold State.slot; rw [hslots]
  have htslot : ∀ i, t.slot i = (recomputeMembers d.members w).slot i := fun i => by unfold State.slot; rw [ht]
  obtain ⟨hother, hmember, -⟩ := recomputeMembers_slots d.members w
  refine fun i => ⟨fun hi => by rw [htslot, hother i hi, hslot], fun hi hf => ?_⟩
  have hfault : onFaultLine w i = onFaultLine s i := by
    unfold onFaultLine State.line
    rw [hslot, hlines]
  have hrec : recomputed w i = recomputed { s with zones := t.zones } i :=
    funext fun r => recomputed_congr (s := { s with zones := t.zones }) hzones hparams htime hlines i r
  rw [htslot, hmember i hi (hfault.trans hf), hslot, hrec]

/-- With no member on a line in FAULT the recomputation gives no notice and no onset. -/
theorem recomputeMembers_quiet {w : State} {d : ZoneDef} (h : ∀ m ∈ d.members, onFaultLine w m = false) :
    (recomputeMembers d.members w).notices = w.notices ∧ (recomputeMembers d.members w).alertA = w.alertA
      ∧ (recomputeMembers d.members w).alertB = w.alertB := by
  rw [(recomputeMembers_slots d.members w).2.2 h]
  exact ⟨rfl, rfl, rfl⟩

theorem onFaultLine_of_same {s w : State} (hslots : w.slots = s.slots) (hlines : w.lines = s.lines) (m : SlotId) :
    onFaultLine w m = onFaultLine s m := by
  unfold onFaultLine State.slot State.line
  rw [hslots, hlines]

theorem unfaulted_of_not {s w : State} {d : ZoneDef} (hslots : w.slots = s.slots) (hlines : w.lines = s.lines) (h : ¬faultedMember s d) :
    ∀ m ∈ d.members, onFaultLine w m = false := fun m hm => by
  rw [onFaultLine_of_same hslots hlines, ← Bool.not_eq_true]
  exact fun hf => h ⟨m, hm, hf⟩

/-- A change of the cycle that leaves the banks as they are. -/
theorem CycleOnly.of_tables {s t : State} (h : CycleOnly s t) (ht : t.tables = s.tables) :
    { s with zones := t.zones, dueQueue := t.dueQueue, current := t.current, slots := t.slots
             notices := t.notices, alertA := t.alertA, alertB := t.alertB, freeCount := t.freeCount } = t := by
  unfold CycleOnly at h
  rw [ht] at h
  exact h

/-! ### ZONE_CLOSE -/

/-- What the close of a zone leaves (R11, R12, R14). -/
theorem closeZone_spec (z : ZoneId) (r : Zone) (s t : State) (ht : t = closeZone z r s) :
    (∀ y, t.zone y = if y = z then none else s.zone y)
    ∧ t.dueQueue = s.dueQueue.filter (· ≠ z)
    ∧ t.current = s.current.map (fun c => if c.zone = some z then { c with zone := none } else c)
    ∧ MembersRecomputed s t r.defn
    ∧ (∃ u, RecomputedTo { s with zones := t.zones } u r.defn ∧ SameProbesAndNotices t u)
    ∧ { s with zones := t.zones, dueQueue := t.dueQueue, current := t.current, slots := t.slots
               notices := t.notices, alertA := t.alertA, alertB := t.alertB, freeCount := t.freeCount } = t
    ∧ (¬faultedMember s r.defn → t.notices = s.notices ∧ t.alertA = s.alertA ∧ t.alertB = s.alertB) := by
  have hprobes : ProbesOnly (leaveCycle z (s.setZone z none)) t := ht ▸ recomputeMembers_probesOnly _ _
  have hcycle : CycleOnly s t := ht ▸ closeZone_cycleOnly z r s
  have hzone : ∀ y, t.zone y = (s.setZone z none).zone y := fun y => by unfold State.zone; rw [hprobes.zones]; rfl
  have hrec : t = recomputeMembers r.defn.members (leaveCycle z (s.setZone z none)) := ht
  refine ⟨fun y => ?_, ?_, ?_, ?_, ?_, hcycle.of_tables hprobes.tables, fun hn => ?_⟩
  · rw [hzone, zone_setZone]
    exact ite_congr (propext eq_comm) (fun _ => rfl) (fun _ => rfl)
  · rw [hprobes.dueQueue]
    refine List.filter_congr fun y _ => ?_
    exact decide_not.symm
  · rw [hprobes.current]
    rfl
  · exact membersRecomputed_of (w := leaveCycle z (s.setZone z none)) rfl rfl rfl rfl (fun y => congrArg paceKey (hzone y).symm)
      (congrArg State.slots hrec)
  · refine recomputedTo_of_same (w := leaveCycle z (s.setZone z none)) r.defn
      ⟨rfl, rfl, rfl, rfl, rfl, rfl, rfl, fun y => congrArg paceKey (hzone y).symm⟩ ?_
    rw [hrec]
    exact ⟨rfl, rfl, rfl, rfl⟩
  · rw [hrec]
    exact recomputeMembers_quiet (w := leaveCycle z (s.setZone z none)) (unfaulted_of_not (s := s) rfl rfl hn)

/-- Settles O23: the zone becomes IDLE and leaves the cycle, and its members are recomputed without it. -/
theorem zoneCloseClosesZone : Obligations.ZoneCloseClosesZone := by
  intro tag n s hr
  have hrun : exec (.zoneClose tag 0 [n]) s = .next (takeZoneClose tag 0 [n] (hunting s)) := exec_request hr .zoneClose tag 0 (by simp)
  rw [hrun]
  unfold takeZoneClose
  rw [takeNone_zero]
  dsimp only
  refine ⟨fun h => ?_, fun z hz => ⟨fun hnone => ?_, fun r hsome => ?_⟩⟩
  · rw [zoneOfByte_eq_none.mpr h]
    rfl
  · rw [hz]
    dsimp only
    rw [opened_zone, hnone]
    rfl
  · rw [hz]
    dsimp only
    rw [opened_zone, hsome]
    refine ⟨closeZone z r s, ?_, closeZone_spec z r s _ rfl⟩
    dsimp only
    rw [(linkApart_closeZone z r).opened _ _ _ _ (closeZone_cycleOnly z r s).link]
    rfl

/-! ### ZONE_DEFINE refused (R7, R8) -/

/-- The members of a definition with their kinds, air members first, in the order in which R8 tests them. -/
def ZoneDef.kinded (d : ZoneDef) : List (SlotId × Kind) := (d.air.map fun m => (m, Kind.air)) ++ d.surface.map fun m => (m, Kind.surface)

theorem memberFailure_eq (s : State) (d : ZoneDef) : memberFailure s d =
    (d.kinded.findSome? fun p => kindFailure s p.2 p.1).or (d.kinded.findSome? fun p => limitFailure s p.2 p.1) := by
  unfold memberFailure ZoneDef.kinded
  rw [List.findSome?_append, List.findSome?_append, List.findSome?_map, List.findSome?_map, List.findSome?_map, List.findSome?_map,
    Option.or_assoc]
  rfl

theorem kindFailure_eq_none {s : State} {k : Kind} {m : SlotId} (h : ∃ q, s.slot m = some q ∧ q.kind = k) : kindFailure s k m = none := by
  obtain ⟨q, hq, hk⟩ := h
  unfold kindFailure
  rw [hq]
  exact if_pos hk

theorem limitFailure_eq_none {s : State} {k : Kind} {m : SlotId} (h : zonesListing s k m < k.zoneLimit) : limitFailure s k m = none :=
  if_neg (Nat.not_le_of_lt h)

/-- The first member that fails a test, after members that pass it. -/
theorem findSome?_first {α β : Type} {f : α → Option β} {before after : List α} {x : α} {b : β} (hbefore : ∀ p ∈ before, f p = none)
    (hx : f x = some b) : (before ++ x :: after).findSome? f = some b := by
  rw [List.findSome?_append, List.findSome?_eq_none_iff.mpr hbefore, Option.none_or, List.findSome?_cons, hx]

theorem zoneLimit_eq (k : Kind) : k.zoneLimit = if k = .air then 2 else 1 := by cases k <;> rfl

/-- No member of a definition fails when each is enrolled with its kind and has room for one more zone. -/
theorem memberFailure_eq_none_of {s : State} {d : ZoneDef} (hkind : ∀ p ∈ d.kinded, ∃ q, s.slot p.1 = some q ∧ q.kind = p.2)
    (hlimit : ∀ p ∈ d.kinded, zonesListing s p.2 p.1 < p.2.zoneLimit) : memberFailure s d = none := by
  rw [memberFailure_eq, List.findSome?_eq_none_iff.mpr fun p hp => kindFailure_eq_none (hkind p hp),
    List.findSome?_eq_none_iff.mpr fun p hp => limitFailure_eq_none (hlimit p hp)]
  rfl

section
variable {tag n wLo wHi aLo aHi hyst nin nout : Byte} {rest : List Byte} {s : State}

/-- ZONE_DEFINE at an IDLE part comes to its own checks. -/
theorem exec_zoneDefine (hr : Ready s) (hlen : rest.length ≤ 53) :
    exec (.zoneDefine tag 0 (n :: wLo :: wHi :: aLo :: aHi :: hyst :: nin :: nout :: rest)) s =
      .next (match zoneOfByte n, parseDefinition (wLo.toNat + 256 * wHi.toNat) (aLo.toNat + 256 * aHi.toNat) hyst.toNat nin.toNat
          nout.toNat rest with
        | some z, some d =>
          if (s.zone z).isSome then answered tag 0x30 0 .refused .zoneActive [] s
          else match memberFailure s d with
            | some (reason, m) => answered tag 0x30 0 .refused reason [byte m.val] s
            | none => answered tag 0x30 0 .ok .none [] (defineZone z d s)
        | _, _ => answered tag 0x30 0 .refused .badParam [] s) := by
  have hrun : exec (.zoneDefine tag 0 (n :: wLo :: wHi :: aLo :: aHi :: hyst :: nin :: nout :: rest)) s
      = .next (takeZoneDefine tag 0 (n :: wLo :: wHi :: aLo :: aHi :: hyst :: nin :: nout :: rest) (hunting s)) :=
    exec_request hr .zoneDefine tag 0 (by simp only [List.length_cons]; omega)
  rw [hrun]
  unfold takeZoneDefine
  rw [takeNone_zero]
  refine congrArg _ ?_
  unfold unsigned16
  dsimp only
  cases zoneOfByte n with
  | none => rfl
  | some z =>
    cases parseDefinition (wLo.toNat + 256 * wHi.toNat) (aLo.toNat + 256 * aHi.toNat) hyst.toNat nin.toNat nout.toNat rest with
    | none => rfl
    | some d =>
      dsimp only
      refine ite_congr rfl (fun _ => rfl) fun _ => ?_
      show (match memberFailure s d with | some (reason, m) => _ | none => _) = _
      cases memberFailure s d with
      | some f => rfl
      | none =>
        dsimp only
        rw [(linkApart_defineZone z d).opened _ _ _ _ (defineZone_cycleOnly z d s).link]
        rfl

end

/-- Settles O22: the definitions that R7 accepts, and the first failure of R8 otherwise. -/
theorem zoneDefineRefusals : Obligations.ZoneDefineRefusals := by
  refine ⟨fun watch alert hyst nin nout rest d hhyst => parseDefinition_eq_some hhyst, ?_⟩
  intro tag n wLo wHi aLo aHi hyst nin nout rest s hr hlen
  dsimp only
  rw [exec_zoneDefine hr hlen]
  refine ⟨fun h => ?_, fun z d hz hd => ?_⟩
  · cases hz : zoneOfByte n with
    | none => rfl
    | some z =>
      obtain h | h := h
      · rw [zoneOfByte_eq_none.mpr h] at hz; cases hz
      · rw [h]
  · rw [hz, hd]
    dsimp only
    refine ⟨fun h => if_pos (Option.isSome_iff_ne_none.mpr h) ▸ rfl, fun hnone before m after k hsplit => ?_⟩
    rw [hnone]
    have hkinded : d.kinded = before ++ (m, k) :: after := hsplit
    have hfail := memberFailure_eq s d
    rw [hkinded] at hfail
    refine ⟨fun hbefore => ?_, fun hall hbefore hlimit => ?_⟩
    · have hpass : ∀ p ∈ before, kindFailure s p.2 p.1 = none := fun p hp => kindFailure_eq_none (hbefore p hp)
      refine ⟨fun hvacant => ?_, fun q hq hk => ?_⟩
      · have hm : kindFailure s k m = some (.vacant, m) := by unfold kindFailure; rw [hvacant]
        rw [findSome?_first (f := fun p : SlotId × Kind => kindFailure s p.2 p.1) (x := (m, k)) hpass hm] at hfail
        rw [hfail]
        rfl
      · have hm : kindFailure s k m = some (.wrongKind, m) := by unfold kindFailure; rw [hq]; exact if_neg hk
        rw [findSome?_first (f := fun p : SlotId × Kind => kindFailure s p.2 p.1) (x := (m, k)) hpass hm] at hfail
        rw [hfail]
        rfl
    · have hkinds : (before ++ (m, k) :: after).findSome? (fun p => kindFailure s p.2 p.1) = none :=
        List.findSome?_eq_none_iff.mpr fun p hp => kindFailure_eq_none (hall p hp)
      have hm : limitFailure s k m = some (.limit, m) := if_pos (by rwa [zoneLimit_eq])
      rw [hkinds, findSome?_first (f := fun p : SlotId × Kind => limitFailure s p.2 p.1) (x := (m, k))
        (fun p hp => limitFailure_eq_none (by rw [zoneLimit_eq]; exact hbefore p hp)) hm] at hfail
      rw [hfail]
      rfl

end Sys2Proof.Machine
end

section
/-! ZONE_DEFINE taken: the zone joins the cycle and its members are recomputed, in either order (R9, R10, R23, R24, R138, R150). -/

namespace Sys2Proof.Machine

/-! ### A new zone joins the cycle -/

/-- `j` is `v` once the newly defined zone has joined the due queue, or been taken by an idle evaluator (R10, R23, R24). -/
structure Joined (z : ZoneId) (d : ZoneDef) (v j : State) : Prop where
  zone : ∀ y, j.zone y = if y = z then some { Zone.defined d with dueMark := v.current.isSome } else v.zone y
  dueQueue : j.dueQueue = if v.current.isSome then v.dueQueue ++ [z] else []
  busy : v.current.isSome = true → j.current = v.current
  idle : v.current = none → j.current = some (startedFor v z d)
  rest : { v with zones := j.zones, dueQueue := j.dueQueue, current := j.current } = j

theorem joined_joinDueQueue {z : ZoneId} {d : ZoneDef} {v : State} (hz : v.zone z = some (.defined d))
    (hq : v.current = none → v.dueQueue = []) : Joined z d v (joinDueQueue z v) := by
  cases hc : v.current with
  | some c =>
    have hj : joinDueQueue z v = enqueue z v := takeHead_busy (s := enqueue z v) hc
    rw [hj]
    refine ⟨fun y => ?_, by rw [hc]; rfl, fun _ => rfl, fun h => (nomatch hc.symm.trans h), rfl⟩
    rw [hc]
    split
    next hy => subst hy; exact hz
    next => rfl
  | none =>
    have hempty := hq hc
    have hj := takeHead_take (s := enqueue z v) (rest := []) hc (by show v.dueQueue ++ [z] = [z]; rw [hempty]; rfl) hz
    change joinDueQueue z v = _ at hj
    rw [hj]
    refine ⟨fun y => ?_, by rw [hc]; rfl, fun h => ?_, fun _ => rfl, rfl⟩
    · rw [hc]
      refine (zone_setZone v z y _).trans ?_
      exact ite_congr (propext eq_comm) (fun _ => rfl) (fun _ => rfl)
    · rw [hc] at h
      cases h

theorem Joined.fields {z : ZoneId} {d : ZoneDef} {v j : State} (h : Joined z d v j) : j.slots = v.slots ∧ j.params = v.params
    ∧ j.timeBase = v.timeBase ∧ j.lines = v.lines ∧ j.notices = v.notices ∧ j.alertA = v.alertA ∧ j.alertB = v.alertB
    ∧ j.tables = v.tables := by
  rw [← h.rest]
  exact ⟨rfl, rfl, rfl, rfl, rfl, rfl, rfl, rfl⟩

theorem paceKey_dueMark (r : Zone) (m : Bool) : paceKey (some { r with dueMark := m }) = paceKey (some r) := rfl

/-- A snapshot reads the slots, the parameters, the time base and the banks. -/
theorem startedFor_congr {s t : State} (hs : t.slots = s.slots) (hp : t.params = s.params) (ht : t.timeBase = s.timeBase)
    (hb : t.tables = s.tables) (z : ZoneId) (d : ZoneDef) : startedFor t z d = startedFor s z d := by
  have hcon : ∀ m, contribution t m = contribution s m := fun m => by
    unfold contribution fresh State.slot
    rw [hs, hp, ht]
  unfold startedFor
  simp only [hcon, ht, hb]

/-! ### Settling the definition -/

/-- What a definition that is taken leaves (R9, R10, R150). -/
structure Defines (z : ZoneId) (d : ZoneDef) (s t : State) : Prop where
  zone : ∀ y, t.zone y = if y = z then some { Zone.defined d with dueMark := s.current.isSome } else s.zone y
  dueQueue : t.dueQueue = if s.current.isSome then s.dueQueue ++ [z] else []
  members : MembersRecomputed s t d
  given : ∃ u, RecomputedTo { s with zones := t.zones } u d ∧ SameProbesAndNotices t u
  busy : s.current.isSome = true → t.current = s.current
  idle : s.current = none → ∃ u, t.current = some (startedFor u z d) ∧ (u = s ∨ (u = t ∧ faultedMember s d))
  quiet : ¬faultedMember s d → t.notices = s.notices ∧ t.alertA = s.alertA ∧ t.alertB = s.alertB
  tables : t.tables = s.tables

section
variable {z : ZoneId} {d : ZoneDef} {s v : State} (hq : s.current = none → s.dueQueue = [])
  (hv : { s.setZone z (some (.defined d)) with freeCount := v.freeCount } = v)
include hv

theorem defined_zone (y : ZoneId) : v.zone y = if y = z then some (.defined d) else s.zone y := by
  rw [← hv]
  refine (zone_setZone s z y _).trans ?_
  exact ite_congr (propext eq_comm) (fun _ => rfl) (fun _ => rfl)

include hq

/-- The zone joins the cycle first, and then the members are recomputed. -/
theorem defines_joinFirst : Defines z d s (recomputeMembers d.members (joinDueQueue z v)) := by
  have hzone := defined_zone hv
  have hjoin : Joined z d v (joinDueQueue z v) := joined_joinDueQueue (by rw [hzone, if_pos rfl]) (by rw [← hv]; exact hq)
  have hprobes := recomputeMembers_probesOnly d.members (joinDueQueue z v)
  obtain ⟨hslots, hparams, htime, hlines, hnotices, halertA, halertB, htables⟩ := hjoin.fields
  generalize joinDueQueue z v = w at hjoin hprobes hslots hparams htime hlines hnotices halertA halertB htables ⊢
  have hcur : v.current = s.current := by rw [← hv]; rfl
  have hqueue : v.dueQueue = s.dueQueue := by rw [← hv]; rfl
  have hvs : v.slots = s.slots ∧ v.params = s.params ∧ v.timeBase = s.timeBase ∧ v.lines = s.lines ∧ v.notices = s.notices
      ∧ v.alertA = s.alertA ∧ v.alertB = s.alertB ∧ v.tables = s.tables := by rw [← hv]; exact ⟨rfl, rfl, rfl, rfl, rfl, rfl, rfl, rfl⟩
  obtain ⟨ks, kp, kt, kl, kn, ka, kb, ktab⟩ := hvs
  have hpace : ∀ y, paceKey (w.zone y) = paceKey ((recomputeMembers d.members w).zone y) := fun y => by
    unfold State.zone; rw [hprobes.zones]
  refine ⟨fun y => ?_, ?_, ?_, ?_, fun h => ?_, fun h => ?_, fun hn => ?_, hprobes.tables.trans (htables.trans ktab)⟩
  · have hw : (recomputeMembers d.members w).zone y = w.zone y := by unfold State.zone; rw [hprobes.zones]
    rw [hw, hjoin.zone, hcur, hzone]
    split <;> rfl
  · rw [hprobes.dueQueue, hjoin.dueQueue, hcur, hqueue]
  · exact membersRecomputed_of (hslots.trans ks) (hparams.trans kp) (htime.trans kt) (hlines.trans kl) hpace rfl
  · exact recomputedTo_of_same d ⟨hslots.trans ks, hparams.trans kp, htime.trans kt, hlines.trans kl, hnotices.trans kn, halertA.trans ka,
      halertB.trans kb, hpace⟩ ⟨rfl, rfl, rfl, rfl⟩
  · rw [hprobes.current, hjoin.busy (by rwa [hcur]), hcur]
  · exact ⟨s, by rw [hprobes.current, hjoin.idle (by rwa [hcur]), startedFor_congr ks kp kt ktab], .inl rfl⟩
  · obtain ⟨h1, h2, h3⟩ := recomputeMembers_quiet (w := w) (unfaulted_of_not (hslots.trans ks) (hlines.trans kl) hn)
    exact ⟨h1.trans (hnotices.trans kn), h2.trans (halertA.trans ka), h3.trans (halertB.trans kb)⟩

/-- The members are recomputed first, and then the zone joins the cycle. -/
theorem defines_recomputeFirst (hf : faultedMember s d) : Defines z d s (joinDueQueue z (recomputeMembers d.members v)) := by
  have hzone := defined_zone hv
  have hprobes := recomputeMembers_probesOnly d.members v
  have hsame : SameProbesAndNotices (recomputeMembers d.members v) (recomputeMembers d.members v) := ⟨rfl, rfl, rfl, rfl⟩
  have hwzone : ∀ y, (recomputeMembers d.members v).zone y = v.zone y := fun y => by unfold State.zone; rw [hprobes.zones]
  have hcur : (recomputeMembers d.members v).current = s.current := by rw [hprobes.current, ← hv]; rfl
  have hqueue : (recomputeMembers d.members v).dueQueue = s.dueQueue := by rw [hprobes.dueQueue, ← hv]; rfl
  have hjoin : Joined z d (recomputeMembers d.members v) (joinDueQueue z (recomputeMembers d.members v)) :=
    joined_joinDueQueue (by rw [hwzone, hzone, if_pos rfl]) (by rw [hcur, hqueue]; exact hq)
  obtain ⟨hslots, hparams, htime, -, hnotices, halertA, halertB, htables⟩ := hjoin.fields
  generalize joinDueQueue z (recomputeMembers d.members v) = t at hjoin hslots hparams htime hnotices halertA halertB htables ⊢
  have hvs : v.slots = s.slots ∧ v.params = s.params ∧ v.timeBase = s.timeBase ∧ v.lines = s.lines ∧ v.notices = s.notices
      ∧ v.alertA = s.alertA ∧ v.alertB = s.alertB ∧ v.tables = s.tables := by rw [← hv]; exact ⟨rfl, rfl, rfl, rfl, rfl, rfl, rfl, rfl⟩
  obtain ⟨ks, kp, kt, kl, kn, ka, kb, ktab⟩ := hvs
  have hpace : ∀ y, paceKey (v.zone y) = paceKey (t.zone y) := fun y => by
    rw [hjoin.zone, hwzone, hzone]
    split <;> rfl
  refine ⟨fun y => ?_, ?_, ?_, ?_, fun h => ?_, fun h => ?_, fun hn => absurd hf hn,
    htables.trans (hprobes.tables.trans ktab)⟩
  · rw [hjoin.zone, hcur, hwzone, hzone]
    split <;> rfl
  · rw [hjoin.dueQueue, hcur, hqueue]
  · exact membersRecomputed_of ks kp kt kl hpace hslots
  · exact recomputedTo_of_same d ⟨ks, kp, kt, kl, kn, ka, kb, hpace⟩ ⟨hslots, hnotices, halertA, halertB⟩
  · rw [hjoin.busy (by rwa [hcur]), hcur]
  · exact ⟨t, by rw [hjoin.idle (by rwa [hcur]), startedFor_congr hslots hparams htime htables], .inr ⟨rfl, hf⟩⟩

end

theorem defines_defineZone (z : ZoneId) (d : ZoneDef) {s : State} (hq : s.current = none → s.dueQueue = []) :
    Defines z d s (defineZone z d s) := by
  unfold defineZone
  dsimp only
  split
  next hf =>
    have hfault : faultedMember s d := by
      obtain ⟨m, hm, hf⟩ := List.any_eq_true.mp hf
      exact ⟨m, hm, hf⟩
    split
    · exact defines_recomputeFirst hq rfl hfault
    · exact defines_joinFirst hq rfl
  next => exact defines_joinFirst hq rfl

/-- Settles O21: the zone is defined, joins the cycle, and its members are recomputed. -/
theorem zoneDefineDefinesZone : Obligations.ZoneDefineDefinesZone := by
  intro tag n wLo wHi aLo aHi hyst nin nout rest z d s hr hlen hz hwatch halert hhyst hnin hnout hvalid hrest hnone hair hsurface hq
  have hparsed : parseDefinition (wLo.toNat + 256 * wHi.toNat) (aLo.toNat + 256 * aHi.toNat) hyst.toNat nin.toNat nout.toNat rest = some d :=
    (parseDefinition_eq_some (Nat.le_of_lt_succ hyst.isLt)).mpr ⟨hvalid, hwatch, halert, hhyst, hnin, hnout, hrest⟩
  have hpass : memberFailure s d = none := by
    have hmembers : ∀ p ∈ d.kinded, (∃ q, s.slot p.1 = some q ∧ q.kind = p.2) ∧ zonesListing s p.2 p.1 < p.2.zoneLimit := by
      intro p hp
      obtain hp | hp := List.mem_append.mp hp
      · obtain ⟨m, hm, rfl⟩ := List.mem_map.mp hp
        exact hair m hm
      · obtain ⟨m, hm, rfl⟩ := List.mem_map.mp hp
        exact hsurface m hm
    exact memberFailure_eq_none_of (fun p hp => (hmembers p hp).1) fun p hp => (hmembers p hp).2
  have hd := defines_defineZone z d hq
  refine ⟨defineZone z d s, ?_, hd.zone, hd.dueQueue, hd.members, hd.given, hd.busy, hd.idle,
    (defineZone_cycleOnly z d s).of_tables hd.tables, hd.quiet⟩
  rw [exec_zoneDefine hr hlen, hz, hparsed]
  dsimp only
  rw [hnone, hpass]
  rfl

end Sys2Proof.Machine
end

section
/-! The completion of an evaluation that is not discarded: what it writes and what it gives (R19, R40 to R44, R150). -/

namespace Sys2Proof.Machine

/-! ### States that differ in notices and alert lines only -/

theorem NoticesOnly.symm {s t : State} (h : NoticesOnly s t) : NoticesOnly t s := by
  unfold NoticesOnly at h ⊢
  rw [← h]

theorem NoticesOnly.setSlot {s t : State} (h : NoticesOnly s t) (i : SlotId) (r : Option Slot) : NoticesOnly (s.setSlot i r) (t.setSlot i r) := by
  unfold NoticesOnly at h ⊢
  rw [← h]
  rfl

theorem NoticesOnly.withZones {s t : State} (h : NoticesOnly s t) (zs : Vector (Option Zone) 24) :
    NoticesOnly { s with zones := zs } { t with zones := zs } := by
  have hz := congrArg (fun x : State => { x with zones := zs }) h
  exact hz

theorem NoticesOnly.advanced {s t : State} (h : NoticesOnly s t) (i : SlotId) (r : Slot) : advanced t i r = advanced s i r :=
  advanced_of_probesOnly h.probes i r

/-- A miss writes the slot's record, by what the slot, the zones and the parameters are, and else only notices and alert lines. -/
theorem missStep_noticesOnly {s t : State} (h : NoticesOnly s t) (i : SlotId) : NoticesOnly (missStep s i) (missStep t i) := by
  unfold missStep
  rw [h.timeBase]
  cases hr : s.slot i with
  | none => rw [handOutcome_vacant hr, handOutcome_vacant ((h.slot i).trans hr)]; exact h
  | some r =>
    have hrt := (h.slot i).trans hr
    by_cases hlost : (r.state = .pending ∨ r.state = .live) ∧ s.params.missLimit ≤ (r.missed .lineFault).misses
    · obtain ⟨hst, hlim⟩ := hlost
      rw [handOutcome_lost hr hst hlim, handOutcome_lost hrt hst (by rwa [h.params]), h.advanced]
      exact (((emit_noticesOnly _ _).trans (onset_noticesOnly _ _)).symm.trans (h.setSlot i _)).trans
        ((emit_noticesOnly _ _).trans (onset_noticesOnly _ _))
    · rw [handOutcome_missed hr hlost, handOutcome_missed hrt (by rwa [h.params]), h.advanced]
      exact h.setSlot i _

theorem missSteps_noticesOnly {s t : State} (h : NoticesOnly s t) (l : List SlotId) : NoticesOnly (l.foldl missStep s) (l.foldl missStep t) := by
  induction l generalizing s t with
  | nil => exact h
  | cons i l ih => exact ih (missStep_noticesOnly h i)

/-- The slots that a recomputation leaves do not depend on the notices (R150). -/
theorem recomputedTo_of_noticesOnly {b b' u : State} {d : ZoneDef} (h : NoticesOnly b b') (hu : RecomputedTo b u d) :
    ∃ u', RecomputedTo b' u' d ∧ u.slots = u'.slots := by
  obtain ⟨order, hnodup, hgiven, rfl⟩ := hu
  have hrec : ∀ i, recomputed b' i = recomputed b i := fun i => funext fun r => recomputed_zones h.zones h.params h.timeBase h.lines i r
  have hmembers : NoticesOnly (recomputedMembers b d) (recomputedMembers b' d) := by
    unfold recomputedMembers
    simp only [hrec, h.slot]
    unfold NoticesOnly at h ⊢
    rw [← h]
  refine ⟨_, ⟨order, hnodup, fun i => (hgiven i).trans ?_, rfl⟩, (missSteps_noticesOnly hmembers order).slots.symm⟩
  unfold givenMiss
  rw [onFaultLine_of_same h.slots h.lines, h.slot, hrec]
  simp only [dueRewritten_congr (fun y => congrArg paceKey (h.zone y)) h.params h.timeBase h.lines]

theorem RecomputedTo.probesOnly {b u : State} {d : ZoneDef} (h : RecomputedTo b u d) : ProbesOnly b u := by
  obtain ⟨order, -, -, rfl⟩ := h
  have hmembers : ProbesOnly b (recomputedMembers b d) := by
    obtain ⟨σ, hσ⟩ := recomputedMembers_slotsOnly b d
    rw [hσ]
    rfl
  exact hmembers.trans (foldl_probesOnly faultMiss_probesOnly order _)

/-! ### Notices and alert lines by what they depend on -/

/-- Two states hold the same notices and alert lines, and the same of what an arrival reads. -/
structure SameNotices (x y : State) : Prop where
  notices : x.notices = y.notices
  alertA : x.alertA = y.alertA
  alertB : x.alertB = y.alertB
  params : x.params = y.params
  time : x.timeBase = y.timeBase

theorem SameNotices.onset {x y : State} (h : SameNotices x y) (src : AlertSource) : SameNotices (onset src x) (onset src y) :=
  ⟨h.notices, congrArg (AlertLine.onOnset src) h.alertA, congrArg (AlertLine.onOnset src) h.alertB, h.params, h.time⟩

theorem SameNotices.onsets {x y : State} (h : SameNotices x y) (l : List AlertSource) :
    SameNotices (l.foldl (fun x src => Machine.onset src x) x) (l.foldl (fun x src => Machine.onset src x) y) := by
  induction l generalizing x y with
  | nil => exact h
  | cons src l ih => exact ih (h.onset src)

theorem SameNotices.emit {x y : State} (h : SameNotices x y) (b : NoticeBody) : SameNotices (emit b x) (emit b y) := by
  unfold Machine.emit arrive
  rw [h.notices, h.params, h.time]
  split
  · split
    · show SameNotices (Machine.onset .queueLevel _) (Machine.onset .queueLevel _)
      refine SameNotices.onset ?_ _
      exact ⟨rfl, h.alertA, h.alertB, rfl, rfl⟩
    · exact ⟨rfl, h.alertA, h.alertB, rfl, rfl⟩
  · split
    · exact ⟨rfl, h.alertA, h.alertB, rfl, rfl⟩
    · exact ⟨rfl, h.alertA, h.alertB, rfl, rfl⟩

theorem zoneOnsets_eq (old new : ZoneState) (s : State) :
    zoneOnsets old new s = (onsetsOf old new).foldl (fun x src => onset src x) s := by
  cases old with
  | blind =>
    cases new with
    | blind => rfl
    | level l => cases l <;> rfl
  | level k =>
    cases new with
    | blind => cases k <;> rfl
    | level l => cases k <;> cases l <;> rfl

/-! ### The evaluator takes the head of the queue (R23, R24) -/

theorem paceKey_takeHead (v : State) (y : ZoneId) : paceKey ((takeHead v).zone y) = paceKey (v.zone y) := by
  unfold takeHead
  split
  next z rest hc hq =>
    split
    next r hz =>
      refine (congrArg paceKey (zone_setZone v z y _)).trans ?_
      split
      next hy => subst hy; rw [hz]; rfl
      next => rfl
    next => rfl
  next => rfl

theorem takeHead_tables (v : State) : (takeHead v).tables = v.tables := by
  unfold takeHead
  repeat' split
  all_goals rfl

theorem takeHead_sameNotices (v : State) : SameNotices (takeHead v) v := by
  unfold takeHead
  repeat' split
  all_goals exact ⟨rfl, rfl, rfl, rfl, rfl⟩

/-- What the taking of the head leaves, in a queue of defined zones. -/
structure HeadTaken (v t : State) : Prop where
  zone : ∀ y, t.zone y = if v.dueQueue.head? = some y then (v.zone y).map fun p => { p with dueMark := false } else v.zone y
  dueQueue : t.dueQueue = v.dueQueue.tail
  empty : v.dueQueue = [] → t.current = none
  started : ∀ y p, v.dueQueue.head? = some y → v.zone y = some p → t.current = some (startedFor t y p.defn)

theorem headTaken_takeHead {v : State} (hc : v.current = none) (hq : ∀ y ∈ v.dueQueue, v.zone y ≠ none) : HeadTaken v (takeHead v) := by
  cases hqueue : v.dueQueue with
  | nil =>
    rw [takeHead_empty hqueue]
    refine ⟨fun y => ?_, ?_, fun _ => hc, fun y p hy _ => ?_⟩
    · rw [hqueue, if_neg nofun]
    · rw [hqueue]; rfl
    · rw [hqueue] at hy; cases hy
  | cons z rest =>
    obtain ⟨r, hz⟩ := Option.ne_none_iff_exists'.mp (hq z (hqueue ▸ List.mem_cons_self))
    rw [takeHead_take hc hqueue hz]
    refine ⟨fun y => ?_, ?_, fun h => ?_, fun y p hy hp => ?_⟩
    · refine (zone_setZone v z y _).trans ?_
      rw [hqueue]
      split
      next hy => subst hy; rw [hz]; exact (if_pos rfl).symm
      next hy => exact (if_neg fun h => hy (Option.some.inj h)).symm
    · rw [hqueue]; rfl
    · rw [hqueue] at h; cases h
    · rw [hqueue] at hy
      cases hy
      cases hz.symm.trans hp
      rfl

/-! ### The completion step by step -/

theorem emit_setZone (b : NoticeBody) (z : ZoneId) (r : Option Zone) (s : State) : emit b (s.setZone z r) = (emit b s).setZone z r := by
  unfold emit arrive State.setZone
  dsimp only
  split
  · split <;> rfl
  · split <;> rfl

section
variable (c : Current) (r : Zone) (s : State)

/-- What qualification makes of the evaluation's outcome. -/
def qualifiedAt : Qualified := qualify c.defn r ((evaluate (s.tables.entriesOf c.bank) c).map fun p => p.1.margin)

/-- The completion changes what the members' pace depends on (R43). -/
def PaceChanged : Prop :=
  (qualifiedAt c r s).state ≠ r.state ∨ ((qualifiedAt c r s).riseCount = 0 ↔ r.riseCount ≠ 0)

/-- The state once ZONE_STATE has been emitted, if the zone's state changes (R42). -/
def noticed (z : ZoneId) : State :=
  if (qualifiedAt c r s).state = r.state then s else emit (.zoneState z r.state (qualifiedAt c r s).state
    (match (qualifiedAt c r s).state with
      | .level _ => (evaluate (s.tables.entriesOf c.bank) c).map Prod.fst
      | .blind => none)) s

theorem noticed_noticesOnly (z : ZoneId) : NoticesOnly s (noticed c r s z) := by
  unfold noticed
  split
  · exact .refl s
  · exact emit_noticesOnly _ s

theorem paceInputsChanged_iff : paceInputsChanged r (zoneAfter s c r) = true ↔ PaceChanged c r s := by
  unfold paceInputsChanged PaceChanged
  rw [Bool.or_eq_true, bne_iff_ne, bne_iff_ne]
  refine or_congr Iff.rfl ?_
  show ((qualifiedAt c r s).riseCount == 0) ≠ (r.riseCount == 0) ↔ _
  rw [ne_eq, Bool.eq_iff_iff, beq_iff_eq, beq_iff_eq]
  omega

theorem not_iff_not_right {a b : Prop} : ¬(a ↔ ¬b) ↔ (a ↔ b) := by
  constructor
  · intro h
    exact ⟨fun ha => Classical.byContradiction fun hb => h (iff_of_true ha hb),
      fun hb => Classical.byContradiction fun ha => h (iff_of_false ha fun hn => hn hb)⟩
  · intro h hnot
    have hb : ¬b := fun hb => hnot.mp (h.mpr hb) hb
    exact hb (h.mp (hnot.mpr hb))

theorem not_paceChanged_iff : ¬PaceChanged c r s ↔ (qualifiedAt c r s).state = r.state ∧ ((qualifiedAt c r s).riseCount = 0 ↔ r.riseCount = 0) := by
  unfold PaceChanged
  rw [not_or, Classical.not_not]
  exact and_congr Iff.rfl not_iff_not_right

/-- The values that ZONE_STATE holds are those of the outcome (R42). -/
theorem noticeValues_zoneAfter : noticeValues (zoneAfter s c r) = match (qualifiedAt c r s).state with
    | .level _ => (evaluate (s.tables.entriesOf c.bank) c).map Prod.fst
    | .blind => none := by
  have hblind := qualify_state c.defn r ((evaluate (s.tables.entriesOf c.bank) c).map fun p => p.1.margin)
  unfold noticeValues
  show (match (qualifiedAt c r s).state with | .level _ => _ | .blind => none) = _
  cases hq : (qualifiedAt c r s).state with
  | blind => rfl
  | level l =>
    dsimp only
    cases ho : evaluate (s.tables.entriesOf c.bank) c with
    | none =>
      rw [ho] at hblind
      exact absurd (hblind.mpr rfl) (by rw [← ho]; show (qualifiedAt c r s).state ≠ _; rw [hq]; exact nofun)
    | some p =>
      unfold zoneAfter latestAfter
      rw [ho]
      rfl

/-- The state once the members have been recomputed, before the onsets (R43). -/
def paced (z : ZoneId) : State :=
  if paceInputsChanged r (zoneAfter s c r) then recomputeMembers r.defn.members ((noticed c r s z).setZone z (some (zoneAfter s c r)))
  else (noticed c r s z).setZone z (some (zoneAfter s c r))

theorem completeZone_eq (z : ZoneId) : completeZone z r c s = zoneOnsets r.state (qualifiedAt c r s).state (paced c r s z) := by
  have hnoticed : (if (zoneAfter s c r).state = r.state then s.setZone z (some (zoneAfter s c r))
      else emit (.zoneState z r.state (zoneAfter s c r).state (noticeValues (zoneAfter s c r))) (s.setZone z (some (zoneAfter s c r))))
      = (noticed c r s z).setZone z (some (zoneAfter s c r)) := by
    rw [emit_setZone, noticeValues_zoneAfter]
    unfold noticed
    show (if (qualifiedAt c r s).state = r.state then _ else _) = _
    split <;> rfl
  unfold completeZone paced
  dsimp only
  rw [hnoticed]
  rfl

theorem paced_probesOnly (z : ZoneId) : ProbesOnly ((noticed c r s z).setZone z (some (zoneAfter s c r))) (paced c r s z) := by
  unfold paced
  split
  · exact recomputeMembers_probesOnly _ _
  · exact .refl _

/-- The state whose PENDING bank is then swapped in (R41). -/
def beforeSwap (z : ZoneId) : State := endEvaluation (completeZone z r c s)

/-- What the steps before the swap leave. -/
structure Written (z : ZoneId) (v : State) : Prop where
  zone : ∀ y, v.zone y = if y = z then some (zoneAfter s c r) else s.zone y
  dueQueue : v.dueQueue = s.dueQueue
  current : v.current = none
  tables : v.tables = s.tables
  slots : v.slots = (paced c r s z).slots
  params : v.params = s.params
  time : v.timeBase = s.timeBase
  notices : SameNotices v ((onsetsOf r.state (qualifiedAt c r s).state).foldl (fun x src => onset src x) (paced c r s z))

theorem written_beforeSwap (z : ZoneId) : Written c r s z (beforeSwap c r s z) := by
  have hprobes := paced_probesOnly c r s z
  have hnoticed := noticed_noticesOnly c r s z
  have honsets := zoneOnsets_noticesOnly r.state (qualifiedAt c r s).state (paced c r s z)
  unfold beforeSwap
  rw [completeZone_eq]
  refine ⟨fun y => ?_, honsets.dueQueue.trans (hprobes.dueQueue.trans hnoticed.dueQueue), rfl,
    honsets.tables.trans (hprobes.tables.trans hnoticed.tables), honsets.slots, honsets.params.trans (hprobes.params.trans hnoticed.params),
    honsets.timeBase.trans (hprobes.timeBase.trans hnoticed.timeBase), ?_⟩
  · refine ((honsets.zone y).trans (hprobes.zone y)).trans ((zone_setZone _ z y _).trans ?_)
    rw [hnoticed.zone]
    exact ite_congr (propext eq_comm) (fun _ => rfl) (fun _ => rfl)
  · rw [← zoneOnsets_eq]
    exact ⟨rfl, rfl, rfl, rfl, rfl⟩

end

/-- What the swap changes: the banks, and the notices and latches (R64). -/
theorem swapPending_kept (v : State) : (swapPending v).zones = v.zones ∧ (swapPending v).dueQueue = v.dueQueue
    ∧ (swapPending v).current = v.current ∧ (swapPending v).slots = v.slots := by
  unfold swapPending
  split
  · exact ⟨rfl, rfl, rfl, rfl⟩
  next k hk =>
    have hn := emit_noticesOnly (.tableSwap k v.tables.activeBank)
      { v with tables := (v.tables.setState v.tables.activeBank .standby).setState k .active }
    exact ⟨hn.zones, hn.dueQueue, hn.current, hn.slots⟩

/-- The completion of an evaluation for its zone. -/
theorem completeEvaluation_zone {c : Current} {z : ZoneId} {r : Zone} {s : State} (hz : c.zone = some z) (hr : s.zone z = some r) :
    completeEvaluation c s = takeHead (swapPending (beforeSwap c r s z)) := by
  unfold completeEvaluation completeFor beforeSwap
  rw [hz]
  dsimp only
  rw [hr]

/-- The zones after a completion differ from those that it wrote at most in a due mark. -/
theorem paceKey_completed {c : Current} {z : ZoneId} {r : Zone} {s : State} (y : ZoneId) :
    paceKey (((noticed c r s z).setZone z (some (zoneAfter s c r))).zone y)
      = paceKey ((takeHead (swapPending (beforeSwap c r s z))).zone y) := by
  rw [paceKey_takeHead]
  have hswap : (swapPending (beforeSwap c r s z)).zone y = (beforeSwap c r s z).zone y := by
    unfold State.zone; rw [(swapPending_kept _).1]
  rw [hswap, (written_beforeSwap c r s z).zone, zone_setZone, (noticed_noticesOnly c r s z).zone]
  exact congrArg paceKey (ite_congr (propext eq_comm) (fun _ => rfl) (fun _ => rfl))

/-- What the completion's recomputation comes to, seen from the state with its notice (R43, R150). -/
theorem paced_spec {c : Current} {z : ZoneId} {r : Zone} {s t : State}
    (hzones : ∀ y, paceKey (((noticed c r s z).setZone z (some (zoneAfter s c r))).zone y) = paceKey (t.zone y)) :
    ∃ m, (PaceChanged c r s → RecomputedTo { noticed c r s z with zones := t.zones } m r.defn) ∧ (¬PaceChanged c r s → m = noticed c r s z)
      ∧ SameProbesAndNotices (paced c r s z) m ∧ m.params = s.params ∧ m.timeBase = s.timeBase := by
  have hnoticed := noticed_noticesOnly c r s z
  by_cases hp : PaceChanged c r s
  · obtain ⟨m, hm, hsame⟩ := recomputedTo_of_same (w := (noticed c r s z).setZone z (some (zoneAfter s c r)))
      (b := { noticed c r s z with zones := t.zones }) (t := paced c r s z) r.defn ⟨rfl, rfl, rfl, rfl, rfl, rfl, rfl, hzones⟩
      (by unfold paced; rw [if_pos ((paceInputsChanged_iff c r s).mpr hp)]; exact ⟨rfl, rfl, rfl, rfl⟩)
    exact ⟨m, fun _ => hm, fun h => absurd hp h, hsame, hm.probesOnly.params.trans hnoticed.params,
      hm.probesOnly.timeBase.trans hnoticed.timeBase⟩
  · refine ⟨noticed c r s z, fun h => absurd h hp, fun _ => rfl, ?_, hnoticed.params, hnoticed.timeBase⟩
    unfold paced
    rw [if_neg fun h => hp ((paceInputsChanged_iff c r s).mp h)]
    exact ⟨rfl, rfl, rfl, rfl⟩

/-- Settles O33: the completion writes its zone, recomputes the members, and the evaluator goes on. -/
theorem completionWritesZone : Obligations.CompletionWritesZone := by
  intro c z r o q s hc hz hr hnot hdefined ho hq
  have hq' : q = qualifiedAt c r s := by rw [hq, ho]; rfl
  subst hq'
  have hw := written_beforeSwap c r s z
  have hrun : exec .evaluationCompletion s = .next (takeHead (swapPending (beforeSwap c r s z))) := by
    rw [exec_evaluationCompletion hc, completeEvaluation_zone hz hr]
  have hcycle : CycleOnly s (takeHead (swapPending (beforeSwap c r s z))) := by
    rw [← completeEvaluation_zone hz hr]
    exact completeEvaluation_cycleOnly c s
  have hpace := fun y => paceKey_completed (c := c) (z := z) (r := r) (s := s) y
  obtain ⟨kz, kq, kc, ks⟩ := swapPending_kept (beforeSwap c r s z)
  have hvzone : ∀ y, (swapPending (beforeSwap c r s z)).zone y = if y = z then some (zoneAfter s c r) else s.zone y := fun y => by
    rw [← hw.zone]
    unfold State.zone
    rw [kz]
  have hvqueue : (swapPending (beforeSwap c r s z)).dueQueue = s.dueQueue := kq.trans hw.dueQueue
  have hne : ∀ y ∈ s.dueQueue, y ≠ z := fun y hy h => hnot (h ▸ hy)
  have hhead : ∀ y, s.dueQueue.head? = some y → y ≠ z := fun y hy => hne y (List.mem_of_mem_head? hy)
  have htaken : HeadTaken (swapPending (beforeSwap c r s z)) (takeHead (swapPending (beforeSwap c r s z))) :=
    headTaken_takeHead (kc.trans hw.current) fun y hy => by
      rw [hvqueue] at hy
      rw [hvzone, if_neg (hne y hy)]
      exact hdefined y hy
  have hslots : (takeHead (swapPending (beforeSwap c r s z))).slots = (paced c r s z).slots :=
    (takeHead_slots _).trans (ks.trans hw.slots)
  have htables : (takeHead (swapPending (beforeSwap c r s z))).tables = (swapPending (beforeSwap c r s z)).tables := takeHead_tables _
  generalize takeHead (swapPending (beforeSwap c r s z)) = t at hrun hcycle hpace htaken hslots htables
  have hnoticed := noticed_noticesOnly c r s z
  refine ⟨t, hrun, ?_, fun y hy => ?_, ?_, fun h => htaken.empty (hvqueue.trans h), fun y p hy hp => ?_, fun hn => ?_, fun k old hk hold => ?_,
    fun h => ⟨?_, ?_⟩, fun h1 h2 => ?_, hcycle⟩
  · rw [htaken.zone, hvqueue, if_neg fun h => hhead z h rfl, hvzone, if_pos rfl, ho]
    rfl
  · rw [htaken.zone, hvqueue, hvzone, if_neg hy]
  · rw [htaken.dueQueue, hvqueue]
  · exact htaken.started y p (by rw [hvqueue, hy]) (by rw [hvzone, if_neg (hhead y hy), hp])
  · rw [htables, swapPending_none (by rwa [hw.tables]), hw.tables]
  · rw [htables, swapPending_some (by rwa [hw.tables]) (by rwa [hw.tables])]
    unfold swapped
    rw [emit_tables, hw.tables]
  · refine membersRecomputed_of (w := (noticed c r s z).setZone z (some (zoneAfter s c r))) hnoticed.slots hnoticed.params
      hnoticed.timeBase hnoticed.lines hpace ?_
    rw [hslots]
    unfold paced
    rw [if_pos ((paceInputsChanged_iff c r s).mpr h)]
  · obtain ⟨m, hm, -, ⟨hmslots, -⟩, -⟩ := paced_spec (c := c) (z := z) (r := r) (s := s) (t := t) hpace
    obtain ⟨u, hu, hus⟩ := recomputedTo_of_noticesOnly (hnoticed.symm.withZones t.zones) (hm h)
    exact ⟨u, hu, hslots.trans (hmslots.trans hus)⟩
  · rw [hslots]
    unfold paced
    rw [if_neg fun h => (not_paceChanged_iff c r s).mpr ⟨h1, h2⟩ ((paceInputsChanged_iff c r s).mp h)]
    exact hnoticed.slots

/-- Settles O34: the notices and onsets of a completion, in their order. -/
theorem completionNotifies : Obligations.CompletionNotifies := by
  intro c z r o q s t u hc hz hr ho hq hrun hu
  have hq' : q = qualifiedAt c r s := by rw [hq, ho]; rfl
  subst hq'
  have hu' : u = noticed c r s z := by
    rw [hu, ho]
    rfl
  subst hu'
  rw [exec_evaluationCompletion hc, completeEvaluation_zone hz hr] at hrun
  cases hrun
  have hw := written_beforeSwap c r s z
  have hnoticed := noticed_noticesOnly c r s z
  obtain ⟨m, hm, hkept, hsame, hparams, htime⟩ := paced_spec (c := c) (z := z) (r := r) (s := s)
    (t := takeHead (swapPending (beforeSwap c r s z))) paceKey_completed
  obtain ⟨-, hmn, hma, hmb⟩ := hsame
  have hpaced := paced_probesOnly c r s z
  refine ⟨m, hm, fun h1 h2 => hkept ((not_paceChanged_iff c r s).mpr ⟨h1, h2⟩), fun hn => ?_, fun v w hv hcase => ?_⟩
  · by_cases hp : PaceChanged c r s
    · obtain ⟨h1, h2, h3⟩ := recomputeMembers_quiet (w := (noticed c r s z).setZone z (some (zoneAfter s c r))) (d := r.defn)
        (unfaulted_of_not (s := s) hnoticed.slots hnoticed.lines hn)
      have hpe : paced c r s z = recomputeMembers r.defn.members ((noticed c r s z).setZone z (some (zoneAfter s c r))) := by
        unfold paced
        rw [if_pos ((paceInputsChanged_iff c r s).mpr hp)]
      rw [hpe] at hmn hma hmb
      exact ⟨rfl, hmn.symm.trans h1, hma.symm.trans h2, hmb.symm.trans h3⟩
    · rw [hkept hp]
      exact ⟨rfl, rfl, rfl, rfl⟩
  · have hpm : SameNotices (paced c r s z) m := ⟨hmn, hma, hmb, (hpaced.params.trans hnoticed.params).trans hparams.symm,
      (hpaced.timeBase.trans hnoticed.timeBase).trans htime.symm⟩
    have hbefore : SameNotices (beforeSwap c r s z) v := by
      have honsets := hpm.onsets (onsetsOf r.state (qualifiedAt c r s).state)
      rw [← hv] at honsets
      exact ⟨hw.notices.notices.trans honsets.notices, hw.notices.alertA.trans honsets.alertA, hw.notices.alertB.trans honsets.alertB,
        hw.notices.params.trans honsets.params, hw.notices.time.trans honsets.time⟩
    have hswap : SameNotices (swapPending (beforeSwap c r s z)) w := by
      obtain ⟨hn, rfl⟩ | ⟨k, old, hk, hold, rfl⟩ := hcase
      · rwa [swapPending_none (by rwa [hw.tables])]
      · rw [swapPending_some (by rwa [hw.tables]) (by rwa [hw.tables])]
        have htables : ∀ ts : Tables, SameNotices { beforeSwap c r s z with tables := ts } v := fun _ =>
          ⟨hbefore.notices, hbefore.alertA, hbefore.alertB, hbefore.params, hbefore.time⟩
        exact (htables _).emit _
    have htake := takeHead_sameNotices (swapPending (beforeSwap c r s z))
    exact ⟨htake.notices.trans hswap.notices, htake.alertA.trans hswap.alertA, htake.alertB.trans hswap.alertB⟩

end Sys2Proof.Machine
end

section
/-! Every command answers a next state and keeps the queue (log 2), and the resets (R17, R70, R71, R167, R181). -/

namespace Sys2Proof.Machine

/-! ### Every command answers a next state -/

/-- The queue of waiting commands is not an effect's to change. -/
theorem Effect.pending_eq {s t : State} (e : Effect s t) : t.pending = s.pending := by
  cases e with
  | enrol => exact (missIfFaulted_probesOnly _ _).pending
  | release => exact (missIfFaulted_probesOnly _ _).pending
  | define => exact (defineZone_cycleOnly _ _ _).pending
  | close => exact (closeZone_cycleOnly _ _ _).pending
  | commit => exact (makePending_cycleOnly _ _).pending
  | select => exact (makePending_cycleOnly _ _).pending
  | expiry => exact (joinDueQueue_cycleOnly _ _).pending
  | completion => exact (completeEvaluation_cycleOnly _ _).pending
  | due => exact (missIfFaulted_probesOnly _ _).pending
  | heatEnd => exact (endHeat_probesOnly _ _ _).pending
  | early => exact (complete_linesOnly _ _ _ _ _ _).pending
  | whole => exact (complete_linesOnly _ _ _ _ _ _).pending
  | fault => exact (enterFault_linesOnly _ _ _).pending
  | recovery => exact (emit_noticesOnly _ _).pending
  | _ => rfl

/-- Every branch of every command answers a next state. -/
theorem exec_answers (c : Instr) (s : State) : ∃ t, exec c s = .next t := by
  cases c with
  | damagedFrame d => cases d <;> exact ⟨_, rfl⟩
  | silenceTimeout =>
    show ∃ t, execSilenceTimeout s = _
    unfold execSilenceTimeout
    split
    all_goals exact ⟨_, rfl⟩
  | dataFrameTransmitted =>
    show ∃ t, execDataFrameTransmitted s = _
    unfold execDataFrameTransmitted
    split
    all_goals exact ⟨_, rfl⟩
  | resultFrameTransmitted =>
    show ∃ t, execResultFrameTransmitted s = _
    unfold execResultFrameTransmitted
    repeat' split
    all_goals exact ⟨_, rfl⟩
  | zoneTimerExpiry z =>
    show ∃ t, execZoneTimerExpiry z s = _
    unfold execZoneTimerExpiry
    repeat' split
    all_goals exact ⟨_, rfl⟩
  | evaluationCompletion =>
    show ∃ t, execEvaluationCompletion s = _
    unfold execEvaluationCompletion
    split
    all_goals exact ⟨_, rfl⟩
  | slotDue i =>
    show ∃ t, execSlotDue i s = _
    unfold execSlotDue
    repeat' split
    all_goals exact ⟨_, rfl⟩
  | heatEnd i =>
    show ∃ t, execHeatEnd i s = _
    unfold execHeatEnd
    repeat' split
    all_goals exact ⟨_, rfl⟩
  | pollStart l =>
    show ∃ t, execPollStart l s = _
    unfold execPollStart
    dsimp only
    repeat' split
    all_goals exact ⟨_, rfl⟩
  | pollSent l =>
    show ∃ t, execPollSent l s = _
    unfold execPollSent
    dsimp only
    repeat' split
    all_goals exact ⟨_, rfl⟩
  | lineLeavesIdleLevel l =>
    show ∃ t, execLineLeavesIdleLevel l s = _
    unfold execLineLeavesIdleLevel
    split
    all_goals exact ⟨_, rfl⟩
  | lineReturnsToIdleLevel l =>
    show ∃ t, execLineReturnsToIdleLevel l s = _
    unfold execLineReturnsToIdleLevel
    dsimp only
    repeat' split
    all_goals exact ⟨_, rfl⟩
  | replyTimeout l =>
    show ∃ t, execReplyTimeout l s = _
    unfold execReplyTimeout
    repeat' split
    all_goals exact ⟨_, rfl⟩
  | replyCharacter l bits =>
    show ∃ t, execReplyCharacter l bits s = _
    unfold execReplyCharacter
    repeat' split
    all_goals exact ⟨_, rfl⟩
  | replyFramingError l =>
    show ∃ t, execReplyFramingError l s = _
    unfold execReplyFramingError
    repeat' split
    all_goals exact ⟨_, rfl⟩
  | replyGapTimeout l =>
    show ∃ t, execReplyGapTimeout l s = _
    unfold execReplyGapTimeout
    repeat' split
    all_goals exact ⟨_, rfl⟩
  | replyComplete l bits =>
    show ∃ t, execReplyComplete l bits s = _
    unfold execReplyComplete
    repeat' split
    all_goals exact ⟨_, rfl⟩
  | discardingEnd l =>
    show ∃ t, execDiscardingEnd l s = _
    unfold execDiscardingEnd
    repeat' split
    all_goals exact ⟨_, rfl⟩
  | turnaroundEnd l =>
    show ∃ t, execTurnaroundEnd l s = _
    unfold execTurnaroundEnd
    repeat' split
    all_goals exact ⟨_, rfl⟩
  | lineFaultEntry l =>
    show ∃ t, execLineFaultEntry l s = _
    unfold execLineFaultEntry
    repeat' split
    all_goals exact ⟨_, rfl⟩
  | lineRecovery l =>
    show ∃ t, execLineRecovery l s = _
    unfold execLineRecovery
    dsimp only
    split
    all_goals exact ⟨_, rfl⟩
  | _ => exact ⟨_, rfl⟩

/-- Settles O2: every command is a chain of effects, and none of them changes the queue. -/
theorem commandsAnswerNextAndKeepQueue : Obligations.CommandsAnswerNextAndKeepQueue := by
  intro c s
  obtain ⟨t, ht⟩ := exec_answers c s
  exact ⟨t, ht, (exec_effects ht).keep (P := fun u => u.pending = s.pending) (fun _ _ e h => e.pending_eq.trans h) rfl⟩

/-! ### Resets -/

theorem atResetValues_resetAll (ts : Tables) (rate : LinkRate) (s : State) : AtResetValues (resetAll ts rate s) :=
  ⟨rfl, rfl, rfl, zone_resetAll ts rate s, rfl, rfl, slot_resetAll ts rate s, fun l => by rw [line_resetAll]; rfl, rfl, rfl, rfl⟩

theorem outsideKept_resetAll (ts : Tables) (rate : LinkRate) (s : State) : OutsideKept s (resetAll ts rate s) :=
  ⟨fun l => by rw [line_resetAll]; rfl, rfl, rfl⟩

/-- A bank at RESTART (R71). -/
theorem loadable_restarted (t : Tables) (k : BankId) : t.restarted.loadable k = (t.loadable k).map Bank.restarted := by
  cases k <;> rfl

theorem restarted_standby {b : Bank} (h : b.state = .active ∨ b.state = .pending ∨ b.state = .standby) :
    b.restarted = { b with state := .standby } := by
  unfold Bank.restarted
  obtain h | h | h := h <;> rw [h]

theorem restarted_loaded {b : Bank} (h : b.state = .loaded) : b.restarted = b := by
  unfold Bank.restarted
  rw [h]

theorem restarted_empty {b : Bank} (h : b.state = .loading ∨ b.state = .empty) : b.restarted = { state := .empty, contents := none } := by
  unfold Bank.restarted
  obtain h | h := h <;> rw [h] <;> rfl

theorem exec_resultFrameTransmitted_restart {s : State} {f : OutFrame} (hf : s.link.result = some f) (hp : s.link.restartPending = true) :
    exec .resultFrameTransmitted s = .next (restartEffect s) := by
  show execResultFrameTransmitted s = _
  unfold execResultFrameTransmitted
  rw [hf]
  exact if_pos hp

/-- Settles O4: both resets put the reset values, and differ in the banks and the link rate. -/
theorem resetsPutResetValues : Obligations.ResetsPutResetValues := by
  refine ⟨fun rate1 rate0 s => ⟨resetAll .reset (linkRateOf rate1 rate0) s, rfl, atResetValues_resetAll _ _ s, outsideKept_resetAll _ _ s,
    rfl, ?_, ?_, rfl, fun _ => rfl⟩, fun s f hf hp => ?_, fun tag s hr => ?_⟩
  · cases rate1 <;> cases rate0 <;> rfl
  · cases rate1 <;> cases rate0 <;> rfl
  · refine ⟨restartEffect s, exec_resultFrameTransmitted_restart hf hp, atResetValues_resetAll _ _ s, outsideKept_resetAll _ _ s, rfl, rfl,
      rfl, fun k b hb => ?_⟩
    have hk : (restartEffect s).tables.loadable k = some b.restarted := (loadable_restarted s.tables k).trans (by rw [hb]; rfl)
    exact ⟨fun h => by rw [hk, restarted_standby h], fun h => by rw [hk, restarted_loaded h], fun h => by rw [hk, restarted_empty h]⟩
  · have hrun : exec (.restart tag 0 []) s = .next (takeRestart tag 0 [] (hunting s)) := exec_request hr .restart tag 0 (by simp)
    rw [hrun]
    rfl

/-- The state after reset is what a hardware reset makes of itself. -/
theorem reset_eq_resetAll : State.reset = resetAll .reset .r9600 State.reset := by
  have hlines : State.reset.lines = State.reset.lines.map fun l => .reset l.activeLevel :=
    (Vector.map_replicate (f := fun l : Line => Line.reset l.activeLevel) (n := 4) (a := Line.reset false)).symm
  exact congrArg (fun ls => { State.reset with lines := ls }) hlines

/-- Settles O3. -/
theorem resetStateHoldsResetValues : Obligations.ResetStateHoldsResetValues :=
  ⟨reset_eq_resetAll ▸ atResetValues_resetAll _ _ _, rfl, rfl⟩

theorem membershipLaw_of_noZones {s : State} (h : ∀ z, s.zone z = none) : MembershipLaw s := by
  have hnone : ∀ z, definitionOf s z = none := fun z => by unfold definitionOf; rw [h]; rfl
  refine (membershipLaw_iff s).mpr ⟨fun z d hd => (nomatch (hnone z).symm.trans hd), fun k m => ?_⟩
  have hzero : zonesListing s k m = 0 := by
    rw [zonesListing_eq]
    refine List.countP_eq_zero.mpr fun z _ hl => ?_
    obtain ⟨d, hd, -⟩ := lists_eq_true.mp hl
    exact nomatch (hnone z).symm.trans hd
  rw [hzero]
  exact Nat.zero_le _

/-- Settles O52: the laws speak of zones, slots, transactions and exchanges that the state after reset does not hold. -/
theorem lawsHoldAtReset : Obligations.LawsHoldAtReset := by
  have hzone : ∀ z, State.reset.zone z = none := fun z => reset_eq_resetAll ▸ zone_resetAll _ _ _ z
  refine ⟨paramsLaw_of_defaults rfl, ⟨Nat.zero_le _, Nat.le_refl 0⟩,
    tablesLaw_of_idle banksLaw_reset (fun j => by cases j <;> exact nofun) rfl, cycleLaw_of_noZones hzone rfl rfl,
    ⟨fun z r hz => (nomatch (hzone z).symm.trans hz), fun _ _ _ hc => (nomatch hc)⟩, reset_eq_resetAll ▸ linesLaw_resetAll _ _ _,
    reset_eq_resetAll ▸ slotsLaw_resetAll _ _ _, membershipLaw_of_noZones hzone, reset_eq_resetAll ▸ linkLaw_resetAll _ _ _⟩

end Sys2Proof.Machine
end

section
/-! Requests that are refused for their form: too few or too many parameters, unknown operations, ranges that name nothing (R172, R15, R66, R92). -/

namespace Sys2Proof.Machine

/-! ### The number of parameters -/

/-- A request without a data phase whose number of parameters is not its operation's is refused after its opening. -/
theorem takeNone_wrongCount {op : Op} {tag : Byte} {e : Word16} {act : State → State} (he : e.toNat ≤ 0)
    (hact : ∀ s, act s = refuse .badParam s) (s : State) :
    takeNone op tag e act s = refuse .badParam (openExchange tag op.code e.toNat s) :=
  (if_pos (BitVec.eq_of_toNat_eq (Nat.le_zero.mp he))).trans (hact _)

/-- The same for a request with a data phase. -/
theorem takeData_wrongCount {op : Op} {tag : Byte} {e : Word16} {act : State → State} (he : e.toNat ≤ 4096)
    (hact : ∀ s, act s = refuse .badParam s) (s : State) :
    takeData op tag e act s = refuse .badParam (openExchange tag op.code e.toNat s) :=
  (if_pos he).trans (hact _)

/-- A request whose number of parameters is not its operation's is refused BAD_PARAM (R172 check 3). -/
theorem takeOp_wrongCount {op : Op} {e : Word16} {params : List Byte} {n : Nat} (he : e.toNat ≤ largestLength op)
    (hn : paramsSize op = some n) (hlen : params.length ≠ n) (tag : Byte) (s : State) :
    takeOp op tag e params s = refuse .badParam (openExchange tag op.code e.toNat s) := by
  cases op
  case zoneDefine => exact nomatch hn
  case identify | readStatus | readProbes | readZones | tableRead | fetchNotices | tableLoad =>
    cases hn
    simp only [takeOp, takeIdentify, takeReadStatus, takeReadProbes, takeReadZones, takeTableRead, takeFetchNotices, takeTableLoad]
    refine takeData_wrongCount he (fun u => ?_) s
    split
    · exact absurd rfl hlen
    · rfl
  all_goals
    cases hn
    simp only [takeOp, takeParamSet, takeParamGet, takeRestart, takeLineSetup, takeLineStop, takeProbeEnrol, takeProbeWithdraw,
      takeProbeHold, takeProbeRelease, takeHeatProbe, takeZoneClose, takeTableBegin, takeTableCommit, takeTableSelect, takeRouteSet,
      takeClearAlert]
    refine takeNone_wrongCount he (fun u => ?_) s
    split
    · exact absurd rfl hlen
    · rfl

theorem exec_wrongCount {s : State} (hr : Ready s) {op : Op} (tag : Byte) {e : Word16} {params : List Byte} {n : Nat}
    (hp : params.length ≤ 61) (he : e.toNat ≤ largestLength op) (hn : paramsSize op = some n) (hlen : params.length ≠ n) :
    exec (requestOf op tag e params) s = .next (answered tag op.code e.toNat .refused .badParam [] s) := by
  rw [exec_request hr op tag e hp, takeOp_wrongCount he hn hlen]
  rfl

/-- A ZONE_DEFINE that ends before its member lists is refused BAD_PARAM (R172 check 3, R185). -/
theorem exec_zoneDefine_short {s : State} (hr : Ready s) (tag : Byte) {params : List Byte} (hlen : params.length < 8) :
    exec (.zoneDefine tag 0 params) s = .next (answered tag 0x30 0 .refused .badParam [] s) := by
  have hrun : exec (.zoneDefine tag 0 params) s = .next (takeZoneDefine tag 0 params (hunting s)) :=
    exec_request hr .zoneDefine tag 0 (by omega)
  rw [hrun]
  unfold takeZoneDefine
  rw [takeNone_zero]
  split
  · simp only [List.length_cons] at hlen
    omega
  · rfl

/-! ### Check 1 -/

theorem exec_badOpRequest {s : State} (hr : Ready s) (tag : Byte) {body : List Byte} (hb : body.length ≤ 64) :
    exec (.badOpRequest tag body) s = .next (takeRequest tag body (hunting s)) :=
  congrArg _ (requestFrame_ready hr tag hb (takeRequest tag body))

theorem exec_badOpRequest_unknown {s : State} (hr : Ready s) (tag : Byte) {op : Byte} (eLo eHi : Byte) {rest : List Byte}
    (hop : Op.ofCode op = none) (hrest : rest.length ≤ 61) :
    exec (.badOpRequest tag (op :: eLo :: eHi :: rest)) s
      = .next (answered tag op (eLo.toNat + 256 * eHi.toNat) .refused .badOp [] s) := by
  rw [exec_badOpRequest hr tag (by simp only [List.length_cons]; omega)]
  unfold takeRequest
  dsimp only
  rw [hop]
  rfl

/-! ### Ranges that name nothing -/

/-- A range of records is refused when it starts beyond the last one or counts none. -/
theorem not_range_iff {first last : Nat} {count : Byte} : ¬(first ≤ last ∧ count ≠ 0) ↔ last < first ∨ count = 0 := by
  rw [Classical.not_and_iff_not_or_not, Nat.not_le, Classical.not_not]

theorem exec_readProbes_badRange {s : State} (hr : Ready s) (tag : Byte) {e : Word16} (he : e.toNat ≤ 4096) {first count : Byte}
    (h : 95 < first.toNat ∨ count = 0) :
    exec (.readProbes tag e [first, count]) s = .next (answered tag 0x24 e.toNat .refused .badParam [] s) := by
  have hrun : exec (.readProbes tag e [first, count]) s = .next (takeReadProbes tag e [first, count] (hunting s)) :=
    exec_request hr .readProbes tag e (by simp)
  rw [hrun]
  unfold takeReadProbes
  rw [takeData_of_le he]
  exact congrArg _ (if_neg (not_range_iff.mpr h))

theorem exec_readZones_badRange {s : State} (hr : Ready s) (tag : Byte) {e : Word16} (he : e.toNat ≤ 4096) {first count : Byte}
    (h : 23 < first.toNat ∨ count = 0) :
    exec (.readZones tag e [first, count]) s = .next (answered tag 0x32 e.toNat .refused .badParam [] s) := by
  have hrun : exec (.readZones tag e [first, count]) s = .next (takeReadZones tag e [first, count] (hunting s)) :=
    exec_request hr .readZones tag e (by simp)
  rw [hrun]
  unfold takeReadZones
  rw [takeData_of_le he]
  exact congrArg _ (if_neg (not_range_iff.mpr h))

theorem exec_tableRead_badRange {s : State} (hr : Ready s) (tag : Byte) {e : Word16} (he : e.toNat ≤ 4096) {bank first count : Byte}
    (h : 2 < bank.toNat ∨ 63 < first.toNat ∨ count = 0) :
    exec (.tableRead tag e [bank, first, count]) s = .next (answered tag 0x44 e.toNat .refused .badParam [] s) := by
  have hrun : exec (.tableRead tag e [bank, first, count]) s = .next (takeTableRead tag e [bank, first, count] (hunting s)) :=
    exec_request hr .tableRead tag e (by simp)
  rw [hrun]
  unfold takeTableRead
  rw [takeData_of_le he]
  dsimp only
  cases hk : bankOfCode bank with
  | none => rfl
  | some k =>
    have hrange : 63 < first.toNat ∨ count = 0 :=
      h.resolve_left fun hbig => nomatch hk.symm.trans (bankOfCode_eq_none.mpr hbig)
    exact congrArg _ (if_neg (not_range_iff.mpr hrange))

/-- Settles O5. -/
theorem requestsAreChecked : Obligations.RequestsAreChecked := by
  unfold Obligations.RequestsAreChecked
  refine ⟨fun op tag e params s hr hp he => exec_tooLong hr tag hp he,
    fun op tag e params n s hr hp he hn hlen => exec_wrongCount hr tag hp he hn hlen,
    fun tag params s hr hlen => exec_zoneDefine_short hr tag hlen, fun tag s hr => ?_, fun tag e first count bank s hr he => ?_⟩
  · exact ⟨fun op eLo eHi rest hop hrest => exec_badOpRequest_unknown hr tag eLo eHi hop hrest,
      fun op => exec_badOpRequest hr tag (by simp), fun op x => exec_badOpRequest hr tag (by simp),
      exec_badOpRequest hr tag (by simp)⟩
  · exact ⟨exec_readProbes_badRange hr tag he, exec_readZones_badRange hr tag he, exec_tableRead_badRange hr tag he⟩

end Sys2Proof.Machine
end

section
/-! Frames that end outside an IDLE exchange (R171, R173 to R175), the taking of a waiting request (R172, R175), and damaged, foreign and lost frames (R169). -/

namespace Sys2Proof.Machine

/-- The result of the open exchange is what ends it (R175). -/
theorem sendResult_eq_ended {s : State} {x : Exchange} (hx : s.link.exchange = some x) (o : Outcome) (reason : Reason) (fields : List Byte) :
    sendResult o reason fields s = ended x o reason fields s := by
  unfold sendResult
  rw [hx]
  rfl

/-! ### A good REQUEST frame, by the state of the exchange -/

section
variable {s : State} (tag : Byte) (body : List Byte) (take : State → State)

theorem goodRequest_result (hres : s.link.result ≠ none) : goodRequest tag body take s = holdWaiting tag body s := by
  unfold goodRequest
  cases h : s.link.result with
  | none => exact absurd h hres
  | some f => rfl

theorem goodRequest_sending (hres : s.link.result = none) (hst : s.link.state = .sending) :
    goodRequest tag body take s = holdWaiting tag body s := by
  unfold goodRequest
  rw [hres, hst]

theorem goodRequest_receiving (hres : s.link.result = none) (hst : s.link.state = .receiving) :
    goodRequest tag body take s = holdWaiting tag body (sendResult .abandoned .none [] s) := by
  unfold goodRequest
  rw [hres, hst]

/-- Outside an IDLE exchange how a request would be taken does not matter. -/
theorem goodRequest_notReady (hr : ¬Ready s) (take' : State → State) : goodRequest tag body take s = goodRequest tag body take' s := by
  cases hres : s.link.result with
  | some f =>
    have hne : s.link.result ≠ none := fun h => nomatch hres.symm.trans h
    rw [goodRequest_result tag body take hne, goodRequest_result tag body take' hne]
  | none =>
    cases hst : s.link.state with
    | idle => exact absurd ⟨hst, hres⟩ hr
    | receiving => rw [goodRequest_receiving tag body take hres hst, goodRequest_receiving tag body take' hres hst]
    | sending => rw [goodRequest_sending tag body take hres hst, goodRequest_sending tag body take' hres hst]

theorem requestFrame_notReady (hr : ¬Ready s) (take' : State → State) : requestFrame tag body take s = requestFrame tag body take' s := by
  unfold requestFrame
  rw [goodRequest_notReady (s := dropPartial s) tag body take hr take']
end

/-- A request that comes in RECEIVING ends the exchange ABANDONED and waits (R173). -/
theorem exec_request_receiving {s : State} {x : Exchange} (tag : Byte) {body : List Byte} (hb : body.length ≤ 64)
    (hst : s.link.state = .receiving) (hres : s.link.result = none) (hx : s.link.exchange = some x) :
    exec (.requestAbandonsReceiving tag body) s = .next
      (hunting (ended x .abandoned .none [] { s with link := { s.link with waiting := some { tag := tag, body := body } } })) := by
  have hframe : requestFrame tag body (takeRequest tag body) s = holdWaiting tag body (ended x .abandoned .none [] (dropPartial s)) := by
    unfold requestFrame
    rw [if_pos hb, goodRequest_receiving (s := dropPartial s) tag body _ hres hst, sendResult_eq_ended (s := dropPartial s) hx]
  exact congrArg _ hframe

theorem exec_request_sending {s : State} (tag : Byte) {body : List Byte} (hb : body.length ≤ 64)
    (hst : s.link.state = .sending) (hres : s.link.result = none) :
    exec (.requestAbandonsSending tag body) s = .next
      (hunting { s with link := { s.link with waiting := some { tag := tag, body := body } } }) :=
  congrArg _ ((if_pos hb).trans (goodRequest_sending (s := dropPartial s) tag body _ hres hst))

theorem exec_request_result {s : State} (tag : Byte) {body : List Byte} (hb : body.length ≤ 64) (hres : s.link.result ≠ none) :
    exec (.waitingRequest tag body) s = .next
      (hunting { s with link := { s.link with waiting := some { tag := tag, body := body } } }) :=
  congrArg _ ((if_pos hb).trans (goodRequest_result (s := dropPartial s) tag body _ hres))

/-- Settles O11. -/
theorem requestsOutsideIdleWait : Obligations.RequestsOutsideIdleWait := by
  unfold Obligations.RequestsOutsideIdleWait
  refine ⟨fun tag body x s hb => ⟨exec_request_receiving tag hb, exec_request_sending tag hb, exec_request_result tag hb⟩,
    fun op tag e params body s hr => ⟨?_, rfl, rfl, rfl⟩⟩
  rw [exec_requestOf]
  exact congrArg _ (requestFrame_notReady tag _ _ hr _)

/-! ### The request that waits -/

theorem ofCode_code (op : Op) : Op.ofCode op.code = some op := by cases op <;> rfl

/-- A word is what its two bytes spell. -/
theorem word16_bytes (e : Word16) : word16 (e.setWidth 8) ((e >>> 8).setWidth 8) = e := by
  apply BitVec.eq_of_toNat_eq
  unfold word16 unsigned16
  rw [BitVec.toNat_ofNat, BitVec.toNat_setWidth, BitVec.toNat_setWidth, BitVec.toNat_ushiftRight, Nat.shiftRight_eq_div_pow]
  have := e.isLt
  omega

/-- The body of a request is taken as its operation says (R172). -/
theorem takeRequest_requestBody (op : Op) (tag : Byte) (e : Word16) (params : List Byte) (s : State) :
    takeRequest tag (requestBody op e params) s = takeOp op tag e params s := by
  unfold takeRequest requestBody
  dsimp only
  rw [ofCode_code, word16_bytes]

theorem hunting_of_partialFrame_none {s : State} (h : s.link.partialFrame = none) : hunting s = s := by
  unfold hunting
  rw [← h]

theorem exec_resultFrameTransmitted_closes {s : State} {f : OutFrame} (hf : s.link.result = some f)
    (hrestart : s.link.restartPending = false) (hw : s.link.waiting = none) :
    exec .resultFrameTransmitted s = .next (closed s) := by
  show execResultFrameTransmitted s = _
  unfold execResultFrameTransmitted
  rw [hf, hrestart, hw]
  rfl

theorem exec_resultFrameTransmitted_takes {s : State} {f : OutFrame} (hf : s.link.result = some f)
    (hrestart : s.link.restartPending = false) {tag : Byte} {body : List Byte} (hw : s.link.waiting = some { tag := tag, body := body }) :
    exec .resultFrameTransmitted s = .next (takeRequest tag body (closed s)) := by
  show execResultFrameTransmitted s = _
  unfold execResultFrameTransmitted
  rw [hf, hrestart, hw]
  rfl

/-- Settles O12. -/
theorem resultTransmittedTakesWaiting : Obligations.ResultTransmittedTakesWaiting := by
  unfold Obligations.ResultTransmittedTakesWaiting
  refine ⟨fun s f hf hrestart => ⟨exec_resultFrameTransmitted_closes hf hrestart, fun op tag e params hst hpart hp hw => ?_,
    fun tag body => exec_resultFrameTransmitted_takes hf hrestart⟩, fun op tag e params s hr hp => ?_⟩
  · have hready : Ready (closed s) := ⟨hst, rfl⟩
    have hhunt : hunting (closed s) = closed s := hunting_of_partialFrame_none hpart
    rw [exec_resultFrameTransmitted_takes hf hrestart hw, exec_request hready op tag e hp, takeRequest_requestBody, hhunt]
  · rw [exec_request hr op tag e hp, takeRequest_requestBody]

/-! ### Frames that are no good request -/

theorem frameDamaged_receiving {s : State} {x : Exchange} (hst : s.link.state = .receiving) (hx : s.link.exchange = some x) :
    frameDamaged s = ended x .corrupt .none [] s := by
  unfold frameDamaged
  rw [hst]
  exact sendResult_eq_ended hx _ _ _

theorem frameDamaged_notReceiving {s : State} (hst : s.link.state ≠ .receiving) : frameDamaged s = s := by
  unfold frameDamaged
  cases h : s.link.state with
  | receiving => exact absurd h hst
  | idle | sending => rfl

theorem goodData_notReceiving {s : State} (hst : s.link.state ≠ .receiving) (tag : Byte) (body : List Byte) : goodData tag body s = s := by
  unfold goodData
  cases h : s.link.state with
  | receiving => exact absurd h hst
  | idle | sending => rfl

theorem goodData_otherTag {s : State} {x : Exchange} (hst : s.link.state = .receiving) (hx : s.link.exchange = some x) {tag : Byte}
    (ht : tag ≠ x.tag) (body : List Byte) : goodData tag body s = ended x .phase .none [] s := by
  unfold goodData
  rw [hst, hx]
  exact (if_neg ht).trans (sendResult_eq_ended hx _ _ _)

/-- The damage that a command names is one. -/
theorem exec_damagedFrame {d : FrameDamage} {s : State}
    (hcrc : ∀ k t b crc, d = .badCrc k t b crc → crc ≠ crc16 (k :: t :: byte b.length :: b))
    (hlen : ∀ n, d = .oversizeLength n → 64 < n.toNat) (hfr : d = .framingError → s.link.partialFrame ≠ none) :
    exec (.damagedFrame d) s = .next (frameDamaged (hunting s)) := by
  show execDamagedFrame d s = _
  cases d with
  | badCrc k t b crc => exact congrArg _ (if_neg (hcrc k t b crc rfl))
  | oversizeLength n => exact congrArg _ (if_pos (hlen n rfl))
  | framingError => exact congrArg _ (if_pos (Option.isSome_iff_ne_none.mpr (hfr rfl)))

theorem exec_framingError_hunting {s : State} (h : s.link.partialFrame = none) : exec (.damagedFrame .framingError) s = .next s :=
  congrArg _ (if_neg (by rw [h]; exact Bool.false_ne_true))

theorem exec_dataFrame {body : List Byte} (hb : body.length ≤ 64) (tag : Byte) (s : State) :
    exec (.dataFrame tag body) s = .next (goodData tag body (hunting s)) :=
  congrArg _ (if_pos hb)

theorem goodFrame_discarded {kind : Byte} {s : State} (hk : kind ≠ 0x01) (hd : kind = 0x02 → s.link.state ≠ .receiving)
    (tag : Byte) (body : List Byte) : goodFrame kind tag body s = s := by
  unfold goodFrame
  rw [if_neg hk]
  split
  case isTrue h => exact goodData_notReceiving (hd h) tag body
  case isFalse => rfl

theorem exec_silenceTimeout_receiving {s : State} {x : Exchange} (hst : s.link.state = .receiving) (hx : s.link.exchange = some x) :
    exec .silenceTimeout s = .next (ended x .short .none [] s) := by
  show execSilenceTimeout s = _
  unfold execSilenceTimeout
  rw [hst, sendResult_eq_ended hx]

theorem exec_silenceTimeout_notReceiving {s : State} (hst : s.link.state ≠ .receiving) : exec .silenceTimeout s = .next s := by
  show execSilenceTimeout s = _
  unfold execSilenceTimeout
  cases h : s.link.state with
  | receiving => exact absurd h hst
  | idle | sending => rfl

/-- Settles O13. -/
theorem badFramesEndReceiving : Obligations.BadFramesEndReceiving := by
  unfold Obligations.BadFramesEndReceiving
  intro s d x kind tag body hcrc hlen hfr hb
  refine ⟨fun hst hx => ⟨?_, exec_silenceTimeout_receiving hst hx, fun ht => ?_⟩,
    fun hst => ⟨?_, exec_silenceTimeout_notReceiving hst, ?_⟩, fun hk hd => ?_, rfl, exec_framingError_hunting⟩
  · rw [exec_damagedFrame hcrc hlen hfr, frameDamaged_receiving (s := hunting s) hst hx]
    rfl
  · rw [exec_dataFrame hb, goodData_otherTag (s := hunting s) hst hx ht]
    rfl
  · rw [exec_damagedFrame hcrc hlen hfr, frameDamaged_notReceiving (s := hunting s) hst]
  · rw [exec_dataFrame hb, goodData_notReceiving (s := hunting s) hst]
  · exact congrArg _ ((if_pos hb).trans (goodFrame_discarded (s := hunting s) hk hd tag body))

end Sys2Proof.Machine
end

section
/-! The data frames of a FROM_PART exchange (R172, R174): what a frame takes of the records that wait, how the phase goes on and how it ends. -/

namespace Sys2Proof.Machine

/-! ### Filling one frame -/

/-- A record that waits and does not fit in E shuts out the records after it, but for notices (R15, R66, R92, R159, R180). -/
def shutsOut (recs : List (List Byte)) (n : Nat) (src : RecordSource) : Bool :=
  decide (n < recs.length ∧ (recs.take (n + 1)).flatten.length ≤ 64) && src != .notices

theorem shutsOut_notices (recs : List (List Byte)) (n : Nat) : shutsOut recs n .notices = false := Bool.and_false _

theorem shutsOut_iff {src : RecordSource} (hs : src ≠ .notices) (recs : List (List Byte)) (n : Nat) :
    shutsOut recs n src = true ↔ n < recs.length ∧ (recs.take (n + 1)).flatten.length ≤ 64 := by
  unfold shutsOut
  rw [bne_iff_ne.mpr hs, Bool.and_true, decide_eq_true_eq]

theorem shutsOut_all {recs : List (List Byte)} {n : Nat} (h : recs.length ≤ n) (src : RecordSource) : shutsOut recs n src = false := by
  unfold shutsOut
  rw [decide_eq_false fun h' => Nat.not_lt_of_le h h'.1, Bool.false_and]

section
variable {recs : List (List Byte)} {room n : Nat}

/-- A frame takes as many records as fit. -/
theorem FrameHolds.filled (h : FrameHolds recs room n) :
    (fillFrame room [] 0 recs).body = (recs.take n).flatten ∧ (fillFrame room [] 0 recs).count = n := by
  obtain ⟨hle, ⟨h64, hroom⟩, hnext⟩ := h
  have hfill := fillFrame_eq room n recs [] 0 hle h64 hroom hnext
  rw [hfill]
  exact ⟨rfl, Nat.zero_add n⟩

theorem FrameHolds.closed_eq (h : FrameHolds recs room n) (src : RecordSource) :
    ((fillFrame room [] 0 recs).closed == .noRoom && src != .notices) = shutsOut recs n src := by
  obtain ⟨hle, ⟨h64, hroom⟩, hnext⟩ := h
  have hfill := fillFrame_eq room n recs [] 0 hle h64 hroom hnext
  rw [hfill]
  unfold shutsOut
  dsimp only
  congr 1
  by_cases hlen : recs.length ≤ n
  · rw [if_pos hlen, decide_eq_false fun h' => Nat.not_lt_of_le hlen h'.1]
    rfl
  · rw [if_neg hlen]
    by_cases hfull : 64 < (recs.take (n + 1)).flatten.length
    · rw [decide_eq_false fun h' => Nat.not_lt_of_le h'.2 hfull]
      exact congrArg (· == FrameClosed.noRoom) (if_pos hfull)
    · rw [decide_eq_true ⟨Nat.lt_of_not_le hlen, Nat.le_of_not_lt hfull⟩]
      exact congrArg (· == FrameClosed.noRoom) (if_neg hfull)
end

/-! ### What the records depend on -/

section
variable (s : State) (k : Link) (src : RecordSource)

theorem remainingRecords_link : remainingRecords { s with link := k } src = remainingRecords s src := by cases src <;> rfl

theorem closingFields_link : closingFields { s with link := k } src = closingFields s src := by cases src <;> rfl

theorem reported_link : reported src { s with link := k } = { reported src s with link := k } := by cases src <;> rfl

theorem closingFields_skip (n : Nat) : closingFields s (src.skip n) = closingFields s src := by cases src <;> rfl
end

/-! ### The next frame, or the end -/

/-- The part with a data frame just built of the first `n` of the records that wait (R174). -/
def frameStarted (x : Exchange) (src : RecordSource) (recs : List (List Byte)) (n : Nat) (s : State) : State :=
  { s with
    link := { s.link with
      state := .sending
      exchange := some { x with source := some (src.skip n), closed := shutsOut recs n src }
      dataFrame := some { tag := x.tag, body := (recs.take n).flatten } }
    notices := if src = .notices then { s.notices with carried := n } else s.notices }

section
variable {s : State} {x : Exchange} {src : RecordSource} (hx : s.link.exchange = some x) (hsrc : x.source = some src)
include hx hsrc

/-- The result that ends a FROM_PART data phase. -/
theorem endSending_eq (o : Outcome) : endSending o s = ended x o .none (closingFields s src) (reported src s) := by
  unfold endSending
  rw [hx]
  simp only [Option.bind_some]
  rw [hsrc]
  cases src
  case notices => exact sendResult_eq_ended (s := reported .notices s) hx _ _ _
  all_goals exact sendResult_eq_ended hx _ _ _

variable {n : Nat} (hf : FrameHolds (remainingRecords s src) (x.expected - x.moved) n)
include hf

theorem buildNext_ends (hend : x.closed = true ∨ n = 0) :
    buildNext s = ended x (if remainingRecords s src = [] then .ok else .truncated) .none (closingFields s src) (reported src s) := by
  have hcond : (x.closed || (fillFrame (x.expected - x.moved) [] 0 (remainingRecords s src)).count == 0) = true := by
    rw [hf.filled.2, Bool.or_eq_true, beq_iff_eq]
    exact hend
  unfold buildNext
  simp only [hx, hsrc, hcond, if_true, List.isEmpty_iff]
  exact endSending_eq hx hsrc _

theorem buildNext_goesOn (hc : x.closed = false) (hn : n ≠ 0) : buildNext s = frameStarted x src (remainingRecords s src) n s := by
  have hcond : ¬(x.closed || n == 0) = true := by
    rw [Bool.or_eq_true, beq_iff_eq, hc]
    exact not_or.mpr ⟨Bool.false_ne_true, hn⟩
  unfold buildNext
  simp only [hx, hsrc, hf.filled.1, hf.filled.2, hf.closed_eq]
  exact if_neg hcond
end

/-- What stays for later frames, whatever the part then holds. -/
theorem skip_spec (src : RecordSource) (recs : List (List Byte)) {n : Nat} (hn : n ≠ 0) :
    (src = .notices → src.skip n = .notices ∧ shutsOut recs n src = false)
    ∧ (src ≠ .notices → (∀ v, remainingRecords v (src.skip n) = (remainingRecords v src).drop n)
        ∧ (shutsOut recs n src = true ↔ n < recs.length ∧ (recs.take (n + 1)).flatten.length ≤ 64))
    ∧ ∀ v, closingFields v (src.skip n) = closingFields v src := by
  refine ⟨?_, fun hs => ⟨fun v => remainingRecords_skip v src hs n hn, shutsOut_iff hs recs n⟩, fun v => closingFields_skip v src n⟩
  rintro rfl
  exact ⟨rfl, shutsOut_notices recs n⟩

/-! ### DATA_FRAME_TRANSMITTED -/

section
variable {s : State} {f : OutFrame} {x : Exchange} (hd : s.link.dataFrame = some f) (hx : s.link.exchange = some x)
include hd hx

theorem exec_dataFrameTransmitted_waiting (hw : s.link.waiting ≠ none) :
    exec .dataFrameTransmitted s = .next (endSending .abandoned (frameSent f x s)) := by
  show execDataFrameTransmitted s = _
  unfold execDataFrameTransmitted
  rw [hd, hx]
  exact congrArg _ (if_pos (Option.isSome_iff_ne_none.mpr hw))

theorem exec_dataFrameTransmitted_next (hw : s.link.waiting = none) :
    exec .dataFrameTransmitted s = .next (buildNext (frameSent f x s)) := by
  show execDataFrameTransmitted s = _
  unfold execDataFrameTransmitted
  rw [hd, hx]
  exact congrArg _ (if_neg (by rw [hw]; exact Bool.false_ne_true))
end

/-- The part whose data frame has moved, but for its link: the notices that the frame carried have left the queue (R159). -/
def carriedGone (s : State) : State :=
  { s with notices := { s.notices with queue := s.notices.queue.drop s.notices.carried, carried := 0 } }

/-- The link whose data frame has moved. -/
def movedLink (f : OutFrame) (x : Exchange) (k : Link) : Link :=
  { k with dataFrame := none, exchange := some { x with moved := x.moved + f.body.length } }

theorem frameSent_eq (f : OutFrame) (x : Exchange) (s : State) :
    frameSent f x s = { carriedGone s with link := movedLink f x s.link } := rfl

theorem ended_link (x : Exchange) (o : Outcome) (reason : Reason) (fields : List Byte) (f : OutFrame) (y : Exchange) (src : RecordSource)
    (u : State) : ended x o reason fields (reported src { u with link := movedLink f y u.link }) = ended x o reason fields (reported src u) := by
  rw [reported_link]
  cases src <;> rfl

/-- Settles O9. -/
theorem dataFrameTransmittedGoesOn : Obligations.DataFrameTransmittedGoesOn := by
  unfold Obligations.DataFrameTransmittedGoesOn
  rintro s f x src recs n u hd hx hsrc rfl rfl hf
  have hx' : (frameSent f x s).link.exchange = some { x with moved := x.moved + f.body.length } := rfl
  have hrecs : remainingRecords (frameSent f x s) src = remainingRecords (carriedGone s) src :=
    remainingRecords_link (carriedGone s) _ src
  have hfields : closingFields (frameSent f x s) src = closingFields (carriedGone s) src :=
    closingFields_link (carriedGone s) _ src
  have hf' : FrameHolds (remainingRecords (frameSent f x s) src) (x.expected - (x.moved + f.body.length)) n := by
    rw [hrecs]
    exact hf
  refine ⟨fun hw => ?_, fun hw hend => ?_, fun hw hc hn => ⟨src.skip n, _, ?_, skip_spec src _ hn⟩⟩
  · rw [exec_dataFrameTransmitted_waiting hd hx hw, endSending_eq hx' hsrc, hfields]
    exact congrArg _ (ended_link _ _ _ _ f x src (carriedGone s))
  · rw [exec_dataFrameTransmitted_next hd hx hw, buildNext_ends hx' hsrc hf' hend, hfields, hrecs]
    exact congrArg _ (ended_link _ _ _ _ f x src (carriedGone s))
  · rw [exec_dataFrameTransmitted_next hd hx hw, buildNext_goesOn hx' hsrc hf' hc hn, hrecs]
    rfl

end Sys2Proof.Machine
end

section
/-! The requests of direction FROM_PART (R15, R66, R92, R159, R172, R179, R180): the records each calls for, the first data frame, and the answer at once. -/

namespace Sys2Proof.Machine

/-! ### The source that each request begins with -/

/-- The request `c`, taken in `s`, calls for `recs` and begins a data phase that sends them from `src`. -/
structure Calls (s : State) (c : Instr) (tag : Byte) (op : Op) (e : Word16) (recs : List (List Byte)) (src : RecordSource) : Prop where
  run : exec c s = .next (startSending src (opened tag op.code e.toNat s))
  records : remainingRecords s src = recs
  notices : src = .notices ↔ op = .fetchNotices
  range : op ≠ .fetchNotices → ∀ v, remainingRecords v src = recordsInRange s v c
  fields : ∀ v, closingFields v src = closingFields v (closingSource c)
  reports : ∀ v, reported src v = reported (closingSource c) v

/-- The indices below a bound that is cut at their number. -/
theorem filter_min_stop (N first stop : Nat) :
    (List.finRange N).filter (fun i => decide (first ≤ i.val) && decide (i.val < min stop N))
      = (List.finRange N).filter fun i => decide (first ≤ i.val) && decide (i.val < stop) := by
  refine List.filter_congr fun i _ => ?_
  rw [decide_eq_decide.mpr (Nat.lt_min.trans (and_iff_left i.isLt))]

/-- A cut at the length of a list cuts nothing of it. -/
theorem take_min_length {α : Type} (l : List α) (n : Nat) : l.take (min n l.length) = l.take n := by
  rw [← List.take_take, List.take_length]

section
variable {s : State} (hr : Ready s) (tag : Byte) {e : Word16} (he : e.toNat ≤ 4096)
include hr he

theorem calls_identify : Calls s (.identify tag e []) tag .identify e [identityRecord] (.identity false) where
  run := (exec_request hr .identify tag e (by simp)).trans (congrArg _ (takeData_of_le he _ tag _ s))
  records := rfl
  notices := ⟨nofun, nofun⟩
  range _ _ := rfl
  fields _ := rfl
  reports _ := rfl

theorem calls_readStatus : Calls s (.readStatus tag e []) tag .readStatus e (statusRecords s) (.status 0) where
  run := (exec_request hr .readStatus tag e (by simp)).trans (congrArg _ (takeData_of_le he _ tag _ s))
  records := rfl
  notices := ⟨nofun, nofun⟩
  range _ _ := rfl
  fields _ := rfl
  reports _ := rfl

theorem calls_fetchNotices : Calls s (.fetchNotices tag e []) tag .fetchNotices e (s.notices.queue.map Notice.record) .notices where
  run := (exec_request hr .fetchNotices tag e (by simp)).trans (congrArg _ (takeData_of_le he _ tag _ s))
  records := rfl
  notices := ⟨fun _ => rfl, fun _ => rfl⟩
  range h := absurd rfl h
  fields _ := rfl
  reports _ := rfl

theorem calls_readProbes {first count : Byte} (hrange : first.toNat ≤ 95 ∧ count ≠ 0) :
    Calls s (.readProbes tag e [first, count]) tag .readProbes e
      ((allSlots.filter fun i => first.toNat ≤ i.val && i.val < first.toNat + count.toNat).map (slotRecord s))
      (.probes first.toNat (min (first.toNat + count.toNat) 96)) where
  run := by
    refine (exec_request hr .readProbes tag e (by simp)).trans (congrArg _ ?_)
    show takeReadProbes tag e [first, count] (hunting s) = _
    unfold takeReadProbes
    rw [takeData_of_le he]
    exact if_pos hrange
  records := congrArg _ (filter_min_stop 96 _ _)
  notices := ⟨nofun, nofun⟩
  range _ _ := congrArg _ (filter_min_stop 96 _ _)
  fields _ := rfl
  reports _ := rfl

theorem calls_readZones {first count : Byte} (hrange : first.toNat ≤ 23 ∧ count ≠ 0) :
    Calls s (.readZones tag e [first, count]) tag .readZones e
      ((allZones.filter fun z => first.toNat ≤ z.val && z.val < first.toNat + count.toNat).map (zoneRecord s))
      (.zones first.toNat (min (first.toNat + count.toNat) 24)) where
  run := by
    refine (exec_request hr .readZones tag e (by simp)).trans (congrArg _ ?_)
    show takeReadZones tag e [first, count] (hunting s) = _
    unfold takeReadZones
    rw [takeData_of_le he]
    exact if_pos hrange
  records := congrArg _ (filter_min_stop 24 _ _)
  notices := ⟨nofun, nofun⟩
  range _ _ := congrArg _ (filter_min_stop 24 _ _)
  fields _ := rfl
  reports _ := rfl

theorem calls_tableRead {b first count : Byte} {k : BankId} (hk : bankOfCode b = some k) (hrange : first.toNat ≤ 63 ∧ count ≠ 0) :
    Calls s (.tableRead tag e [b, first, count]) tag .tableRead e
      ((((s.tables.entriesOf k).take (first.toNat + count.toNat)).zipIdx.drop first.toNat).map fun (x, k) => entryRecord k x)
      (.entries k first.toNat (min (first.toNat + count.toNat) (s.tables.entriesOf k).length)) where
  run := by
    refine (exec_request hr .tableRead tag e (by simp)).trans (congrArg _ ?_)
    show takeTableRead tag e [b, first, count] (hunting s) = _
    unfold takeTableRead
    rw [takeData_of_le he]
    simp only [hk]
    exact if_pos hrange
  records := by
    unfold remainingRecords
    dsimp only
    rw [take_min_length]
  notices := ⟨nofun, nofun⟩
  range _ v := by
    unfold recordsInRange
    simp only [hk]
    rfl
  fields v := by
    unfold closingSource
    simp only [hk]
    rfl
  reports _ := rfl

/-- Every request that calls for records begins a data phase. -/
theorem recordsCalledFor_calls {c : Instr} {tag : Byte} {op : Op} {recs : List (List Byte)}
    (h : recordsCalledFor s c = some (tag, op, e, recs)) : ∃ src, Calls s c tag op e recs src := by
  unfold recordsCalledFor at h
  split at h
  case h_1 => cases h; exact ⟨_, calls_identify hr _ he⟩
  case h_2 => cases h; exact ⟨_, calls_readStatus hr _ he⟩
  case h_3 =>
    split at h
    case isTrue hrange => cases h; exact ⟨_, calls_readProbes hr _ he hrange⟩
    case isFalse => exact nomatch h
  case h_4 =>
    split at h
    case isTrue hrange => cases h; exact ⟨_, calls_readZones hr _ he hrange⟩
    case isFalse => exact nomatch h
  case h_5 =>
    split at h
    case h_1 hk =>
      split at h
      case isTrue hrange => cases h; exact ⟨_, calls_tableRead hr _ he hk hrange⟩
      case isFalse => exact nomatch h
    case h_2 => exact nomatch h
  case h_6 => cases h; exact ⟨_, calls_fetchNotices hr _ he⟩
  case h_7 => exact nomatch h
end

/-! ### The first frame, or the answer at once -/

/-- The link as the first data frame of an exchange is built. -/
def sendingLink (tag op : Byte) (e : Nat) (src : RecordSource) (k : Link) : Link :=
  { openedLink tag op e k with state := .sending, exchange := some { exchangeOf tag op e with source := some src } }

theorem startSending_opened (tag op : Byte) (e : Nat) (src : RecordSource) (s : State) :
    startSending src (opened tag op e s) = buildNext { s with link := sendingLink tag op e src s.link } := rfl

section
variable {s : State} {c : Instr} {tag : Byte} {op : Op} {e : Word16} {recs : List (List Byte)} {src : RecordSource} {n : Nat}
  (hc : Calls s c tag op e recs src) (hf : FrameHolds recs e.toNat n)
include hc hf

theorem Calls.holds : FrameHolds (remainingRecords { s with link := sendingLink tag op.code e.toNat src s.link } src) (e.toNat - 0) n := by
  rw [remainingRecords_link, hc.records]
  exact hf

/-- The first data frame of a request that calls for records that fit. -/
theorem Calls.exec_frame (hn : n ≠ 0) : exec c s = .next { s with
    link := { s.link with
      state := .sending, partialFrame := none
      exchange := some { exchangeOf tag op.code e.toNat with source := some (src.skip n), closed := shutsOut recs n src }
      dataFrame := some { tag := tag, body := (recs.take n).flatten } }
    notices := if op = .fetchNotices then { s.notices with carried := n } else s.notices } := by
  rw [hc.run, startSending_opened, buildNext_goesOn rfl rfl (hc.holds hf) rfl hn, remainingRecords_link, hc.records]
  unfold frameStarted
  simp only [hc.notices]
  rfl

/-- The answer at once, where no record fits or none is called for. -/
theorem Calls.exec_answered (hn : n = 0) : exec c s = .next (answered tag op.code e.toNat (if recs = [] then .ok else .truncated) .none
    (closingFields s (closingSource c)) (reported (closingSource c) s)) := by
  rw [hc.run, startSending_opened, buildNext_ends rfl rfl (hc.holds hf) (.inr hn), remainingRecords_link, hc.records, closingFields_link,
    reported_link, hc.fields, ← hc.reports]
  cases src <;> rfl
end

/-- Settles O7. -/
theorem firstDataFrameHoldsWhatFits : Obligations.FirstDataFrameHoldsWhatFits := by
  unfold Obligations.FirstDataFrameHoldsWhatFits
  intro c tag op e recs n s hr hcalled he hf hn
  obtain ⟨src, hc⟩ := recordsCalledFor_calls hr he hcalled
  obtain ⟨hnotices, hrest, hfields⟩ := skip_spec src recs hn
  refine ⟨src.skip n, shutsOut recs n src, hc.exec_frame hf hn, fun hop => hnotices (hc.notices.mpr hop), fun hop => ?_, fun v => ?_⟩
  · obtain ⟨hleft, hshut⟩ := hrest fun h => hop (hc.notices.mp h)
    exact ⟨(hc.range hop s).symm.trans hc.records, fun v => by rw [hleft, hc.range hop], hshut⟩
  · rw [hfields, hc.fields]

/-- Settles O8. -/
theorem noFittingRecordEndsAtOnce : Obligations.NoFittingRecordEndsAtOnce := by
  unfold Obligations.NoFittingRecordEndsAtOnce
  intro c tag op e recs s hr hcalled he hf
  obtain ⟨src, hc⟩ := recordsCalledFor_calls hr he hcalled
  exact hc.exec_answered hf rfl

/-! ### IDENTIFY and READ_STATUS -/

theorem length_generalRecord (s : State) : (generalRecord s).length = 12 := by
  unfold generalRecord
  cases s.tables.cursor <;> rfl

theorem length_lineRecord (s : State) : (lineRecord s).length = 25 := rfl

theorem length_populationRecord (s : State) : (populationRecord s).length = 13 := rfl

theorem length_queueRecord (s : State) : (queueRecord s).length = 7 := rfl

theorem length_statusRecords (s : State) : (statusRecords s).flatten.length = 57 := by
  simp [statusRecords, length_generalRecord, length_lineRecord, length_populationRecord, length_queueRecord]

/-- Records that all fit go into one frame. -/
theorem FrameHolds.all {recs : List (List Byte)} {room : Nat} (h64 : recs.flatten.length ≤ 64) (hroom : recs.flatten.length ≤ room) :
    FrameHolds recs room recs.length := by
  refine ⟨Nat.le_refl _, ?_, fun h => absurd h (Nat.lt_irrefl _)⟩
  rw [List.take_length]
  exact ⟨h64, hroom⟩

theorem frameHolds_identity_none {room : Nat} (h : room < 10) : FrameHolds [identityRecord] room 0 :=
  ⟨Nat.zero_le _, ⟨Nat.zero_le _, Nat.zero_le _⟩, fun _ => .inr h⟩

/-- Settles O6. -/
theorem identifyAndStatusSendRecords : Obligations.IdentifyAndStatusSendRecords := by
  unfold Obligations.IdentifyAndStatusSendRecords
  refine ⟨fun tag e s hr he => ⟨fun hroom => ?_, fun hroom => ?_⟩, fun tag e s hr hroom he => ?_⟩
  · exact (calls_identify hr tag he).exec_frame (n := 1) (FrameHolds.all (recs := [identityRecord]) (by decide) hroom) (by decide)
  · exact (calls_identify hr tag he).exec_answered (frameHolds_identity_none hroom) rfl
  · have hlen := length_statusRecords s
    have hall : FrameHolds (statusRecords s) e.toNat 4 := FrameHolds.all (by omega) (by omega)
    rw [(calls_readStatus hr tag he).exec_frame hall (by decide), shutsOut_all (Nat.le_refl 4)]
    have hbody : ((statusRecords s).take 4).flatten = generalRecord s ++ lineRecord s ++ populationRecord s ++ queueRecord s := by
      simp [statusRecords]
    rw [hbody]
    rfl

end Sys2Proof.Machine
end

section
/-! The characters and bytes of the station link (R168, R169, R183): the bytes of a frame that has not ended are kept, the last byte of a frame does what the frame does, and what the part transmits. -/

namespace Sys2Proof.Machine

/-! ### The partial frame -/

/-- The receiver holds `bs` as its partial frame. -/
def holding (bs : List Byte) (s : State) : State := { s with link := { s.link with partialFrame := some bs } }

/-- The bytes after a lead byte are no whole frame yet, nor can be none. -/
def Unfinished (bs : List Byte) : Prop := ∀ len, bs[2]? = some len → len.toNat ≤ 64 ∧ bs.length < len.toNat + 5

theorem Unfinished.of_append {a b : List Byte} (h : Unfinished (a ++ b)) : Unfinished a := by
  intro len hlen
  obtain ⟨h2, _⟩ := List.getElem?_eq_some_iff.mp hlen
  obtain ⟨hle, hlt⟩ := h len ((List.getElem?_append_left h2).trans hlen)
  rw [List.length_append] at hlt
  exact ⟨hle, by omega⟩

/-- The length byte and the bytes after it. -/
theorem drop_two_eq_cons {bs : List Byte} {len : Byte} (h : bs[2]? = some len) : ∃ rest, bs.drop 2 = len :: rest ∧ bs.length = rest.length + 3 := by
  match bs, h with
  | _ :: _ :: _ :: rest, h => cases h; exact ⟨rest, rfl, rfl⟩

section
variable (s : State) (bs : List Byte) (b : Byte)

theorem receiveByte_lead (h : s.link.partialFrame = none) : receiveByte s 0xC3 = holding [] s := by
  unfold receiveByte
  rw [h]
  rfl

theorem receiveByte_hunting (h : s.link.partialFrame = none) (hb : b ≠ 0xC3) : receiveByte s b = s := by
  unfold receiveByte
  rw [h]
  exact if_neg hb

theorem receiveByte_keeps (h : Unfinished (bs ++ [b])) : receiveByte (holding bs s) b = holding (bs ++ [b]) s := by
  unfold receiveByte holding
  dsimp only
  cases h2 : (bs ++ [b])[2]? with
  | none =>
    have hdrop : (bs ++ [b]).drop 2 = [] := List.drop_eq_nil_of_le (List.getElem?_eq_none_iff.mp h2)
    simp only [hdrop]
  | some len =>
    obtain ⟨rest, hdrop, hlength⟩ := drop_two_eq_cons h2
    obtain ⟨hle, hlt⟩ := h len h2
    simp only [hdrop, if_neg (Nat.not_lt_of_le hle)]
    exact if_neg (by omega)

theorem receiveByte_whole {len : Byte} (h2 : (bs ++ [b])[2]? = some len) (hle : len.toNat ≤ 64)
    (hwhole : (bs ++ [b]).length = len.toNat + 5) : receiveByte (holding bs s) b = judgeFrame (bs ++ [b]) (dropPartial s) := by
  obtain ⟨rest, hdrop, hlength⟩ := drop_two_eq_cons h2
  unfold receiveByte holding
  simp only [hdrop, if_neg (Nat.not_lt_of_le hle)]
  exact if_pos (by omega)

theorem receiveByte_oversize {len : Byte} (h2 : (bs ++ [b])[2]? = some len) (hgt : 64 < len.toNat) :
    receiveByte (holding bs s) b = frameDamaged (dropPartial s) := by
  obtain ⟨rest, hdrop, _⟩ := drop_two_eq_cons h2
  unfold receiveByte holding
  simp only [hdrop]
  exact if_pos hgt
end

/-- The bytes of a frame that has not ended are kept. -/
theorem receive_unfinished (s : State) (bytes : List Byte) (bs : List Byte) (h : Unfinished (bs ++ bytes)) :
    bytes.foldl receiveByte (holding bs s) = holding (bs ++ bytes) s := by
  induction bytes generalizing bs with
  | nil => rw [List.append_nil]; rfl
  | cons b rest ih =>
    have hsplit : bs ++ b :: rest = (bs ++ [b]) ++ rest := by simp
    rw [hsplit] at h ⊢
    rw [List.foldl_cons, receiveByte_keeps s bs b h.of_append, ih _ h]

theorem receive_lead_unfinished {s : State} (hs : s.link.partialFrame = none) {bytes : List Byte} (h : Unfinished bytes) :
    (0xC3 :: bytes).foldl receiveByte s = holding bytes s := by
  rw [List.foldl_cons, receiveByte_lead s hs, receive_unfinished s bytes [] h]
  rfl

/-! ### Whole frames -/

/-- The bytes of a frame after its lead byte, but for the second CRC byte. -/
theorem unfinished_frame (kind tag lo : Byte) {body : List Byte} (hb : body.length ≤ 64) :
    Unfinished (kind :: tag :: byte body.length :: body ++ [lo]) := by
  intro len hlen
  have hbyte : byte body.length = len := Option.some.inj hlen
  have hnum : len.toNat = body.length := by rw [← hbyte, toNat_byte]; omega
  rw [hnum]
  exact ⟨hb, by simp⟩

/-- A whole frame is judged by its CRC (R169, R194). -/
theorem judgeFrame_eq (kind tag len lo hi : Byte) (body : List Byte) (s : State) :
    judgeFrame (kind :: tag :: len :: body ++ [lo] ++ [hi]) s
      = if word16 lo hi = crc16 (coveredBytes kind tag body) then goodFrame kind tag body s else frameDamaged s := by
  have hlist : kind :: tag :: len :: body ++ [lo] ++ [hi] = kind :: tag :: len :: (body ++ [lo, hi]) := by simp
  rw [hlist]
  simp [judgeFrame]

/-- The bytes of a whole frame do what its kind, tag, body and CRC say. -/
theorem receive_frame {s : State} (hs : s.link.partialFrame = none) (kind tag lo hi : Byte) {body : List Byte} (hb : body.length ≤ 64) :
    (0xC3 :: kind :: tag :: byte body.length :: body ++ [lo, hi]).foldl receiveByte s
      = if word16 lo hi = crc16 (coveredBytes kind tag body) then goodFrame kind tag body (dropPartial s)
        else frameDamaged (dropPartial s) := by
  have hlist : 0xC3 :: kind :: tag :: byte body.length :: body ++ [lo, hi]
      = (0xC3 :: (kind :: tag :: byte body.length :: body ++ [lo])) ++ [hi] := by simp
  rw [hlist, List.foldl_append, receive_lead_unfinished hs (unfinished_frame kind tag lo hb), ← judgeFrame_eq kind tag (byte body.length)]
  have hnum : (byte body.length).toNat = body.length := by rw [toNat_byte]; omega
  refine receiveByte_whole s (kind :: tag :: byte body.length :: body ++ [lo]) hi (len := byte body.length) rfl (by omega) ?_
  simp only [List.length_append, List.length_cons, List.length_nil]
  omega

theorem receive_oversize {s : State} (hs : s.link.partialFrame = none) (kind tag : Byte) {len : Byte} (hlen : 64 < len.toNat) :
    [0xC3, kind, tag, len].foldl receiveByte s = frameDamaged (dropPartial s) := by
  have hopen : [0xC3, kind, tag].foldl receiveByte s = holding [kind, tag] s :=
    receive_lead_unfinished hs fun _ h => nomatch h
  exact (congrArg (receiveByte · len) hopen).trans (receiveByte_oversize s [kind, tag] len rfl hlen)

/-- The two bytes of a CRC spell it. -/
theorem bytes16_toNat (w : Word16) : bytes16 w.toNat = [w.setWidth 8, (w >>> 8).setWidth 8] := by
  have hlow : byte w.toNat = w.setWidth 8 := BitVec.ofNat_toNat 8 w
  have hhigh : byte (w.toNat / 256) = (w >>> 8).setWidth 8 := by
    apply BitVec.eq_of_toNat_eq
    rw [toNat_byte, BitVec.toNat_setWidth, BitVec.toNat_ushiftRight, Nat.shiftRight_eq_div_pow]
  unfold bytes16
  rw [hlow, hhigh]

theorem wireBytes_eq (kind tag : Byte) (body : List Byte) :
    wireBytes kind tag body = 0xC3 :: kind :: tag :: byte body.length :: body
      ++ [(crc16 (coveredBytes kind tag body)).setWidth 8, (crc16 (coveredBytes kind tag body) >>> 8).setWidth 8] := by
  unfold wireBytes
  rw [bytes16_toNat]
  rfl

/-- The bytes of a frame with its own CRC are the good frame. -/
theorem receive_wireBytes {s : State} (hs : s.link.partialFrame = none) (kind tag : Byte) {body : List Byte} (hb : body.length ≤ 64) :
    (wireBytes kind tag body).foldl receiveByte s = goodFrame kind tag body (dropPartial s) := by
  rw [wireBytes_eq, receive_frame hs kind tag _ _ hb, if_pos (word16_bytes _)]

/-! ### LEAD_BYTE -/

theorem exec_leadByte (bytes : List Byte) (s : State) : exec (.leadByte (bytes.map linkCharacter)) s = .next (bytes.foldl receiveByte s) :=
  congrArg _ (receive_linkCharacters s bytes)

theorem goodFrame_request (tag : Byte) (body : List Byte) (s : State) :
    goodFrame 0x01 tag body s = goodRequest tag body (takeRequest tag body) s := rfl

/-- A good frame of another kind is the frame command. -/
theorem exec_frameCommand {kind : Byte} (hk : kind ≠ 0x01) (tag : Byte) {body : List Byte} (hb : body.length ≤ 64) (s : State) :
    exec (frameCommand kind tag body) s = .next (goodFrame kind tag body (dropPartial s)) := by
  unfold frameCommand
  split
  case isTrue h =>
    subst h
    exact congrArg _ (if_pos hb)
  case isFalse => exact congrArg _ (if_pos hb)

section
variable {s : State} (hs : s.link.partialFrame = none)
include hs

theorem exec_leadByte_request (op : Op) (tag : Byte) (e : Word16) {params : List Byte} (hp : params.length ≤ 61) :
    exec (.leadByte ((wireBytes 0x01 tag (requestBody op e params)).map linkCharacter)) s = exec (requestOf op tag e params) s := by
  have hb : (requestBody op e params).length ≤ 64 := by rw [length_requestBody]; omega
  have htake : takeRequest tag (requestBody op e params) = takeOp op tag e params :=
    funext (takeRequest_requestBody op tag e params)
  rw [exec_leadByte, receive_wireBytes hs 0x01 tag hb, goodFrame_request, htake, exec_requestOf]
  exact congrArg _ (if_pos hb).symm

theorem exec_leadByte_badOpRequest (tag : Byte) {body : List Byte} (hb : body.length ≤ 64) :
    exec (.leadByte ((wireBytes 0x01 tag body).map linkCharacter)) s = exec (.badOpRequest tag body) s := by
  rw [exec_leadByte, receive_wireBytes hs 0x01 tag hb, goodFrame_request]
  exact congrArg _ (if_pos hb).symm

theorem exec_leadByte_frameCommand (kind tag : Byte) {body : List Byte} (hb : body.length ≤ 64) (hk : kind ≠ 0x01) :
    exec (.leadByte ((wireBytes kind tag body).map linkCharacter)) s = exec (frameCommand kind tag body) s := by
  rw [exec_leadByte, receive_wireBytes hs kind tag hb, exec_frameCommand hk tag hb]

theorem exec_leadByte_badCrc (kind tag lo hi : Byte) {body : List Byte} (hb : body.length ≤ 64)
    (hcrc : word16 lo hi ≠ crc16 (kind :: tag :: byte body.length :: body)) :
    exec (.leadByte ((0xC3 :: kind :: tag :: byte body.length :: body ++ [lo, hi]).map linkCharacter)) s
      = exec (.damagedFrame (.badCrc kind tag body (word16 lo hi))) s := by
  rw [exec_leadByte, receive_frame hs kind tag lo hi hb]
  exact congrArg _ ((if_neg hcrc).trans (if_neg hcrc).symm)

theorem exec_leadByte_oversize (kind tag len : Byte) (hlen : 64 < len.toNat) :
    exec (.leadByte ([0xC3, kind, tag, len].map linkCharacter)) s = exec (.damagedFrame (.oversizeLength len)) s := by
  rw [exec_leadByte, receive_oversize hs kind tag hlen]
  exact congrArg _ (if_pos hlen).symm

theorem exec_leadByte_unfinished {bytes : List Byte} (h : Unfinished bytes) :
    exec (.leadByte ((0xC3 :: bytes).map linkCharacter)) s
      = .next { s with link := { s.link with partialFrame := some bytes } } := by
  rw [exec_leadByte, receive_lead_unfinished hs h]
  rfl

theorem exec_leadByte_hunting {b : Byte} (hb : b ≠ 0xC3) : exec (.leadByte [linkCharacter b]) s = .next s :=
  (exec_leadByte [b] s).trans (congrArg _ (receiveByte_hunting s b hs hb))
end

theorem exec_leadByte_append {s t : State} {a : List LinkCharacter} (b : List LinkCharacter) (h : exec (.leadByte a) s = .next t) :
    exec (.leadByte (a ++ b)) s = exec (.leadByte b) t := by
  have ht : a.foldl receiveLinkCharacter s = t := Host.Outcome.next.inj h
  subst ht
  exact congrArg _ List.foldl_append

/-- A character whose stop bit is low is the damage of a framing error. -/
theorem exec_leadByte_framingError {c : LinkCharacter} (h : c.getLsbD 8 = false) (s : State) :
    exec (.leadByte [c]) s = exec (.damagedFrame .framingError) s := by
  have herr : hasFramingError c = true := by unfold hasFramingError; rw [h]; rfl
  exact congrArg _ (if_pos herr)

/-! ### What stands on the wire -/

theorem linkLevels_linkCharacter (b : Byte) : linkLevels (linkCharacter b)
    = [false, b.getLsbD 0, b.getLsbD 1, b.getLsbD 2, b.getLsbD 3, b.getLsbD 4, b.getLsbD 5, b.getLsbD 6, b.getLsbD 7, true] := by
  simp [linkLevels, linkCharacter, BitVec.getLsbD_cons, List.range_succ]

/-- The frame in transmission, byte by byte (R183). -/
theorem sentBytes_of_frame {k : Link} {f : OutFrame} {kind : Byte}
    (h : k.result = some f ∧ kind = 0x03 ∨ k.result = none ∧ k.dataFrame = some f ∧ kind = 0x02) :
    k.sentBytes = wireBytes kind f.tag f.body := by
  unfold Link.sentBytes
  rcases h with ⟨hres, rfl⟩ | ⟨hres, hdata, rfl⟩
  · rw [hres]
  · rw [hres, hdata]

theorem sentBytes_of_none {k : Link} (hres : k.result = none) (hdata : k.dataFrame = none) : k.sentBytes = [] := by
  unfold Link.sentBytes
  rw [hres, hdata]

/-- The levels of bytes, ten for each. -/
def levelsOf (bytes : List Byte) : List Bool := bytes.flatMap fun b => linkLevels (linkCharacter b)

theorem levelsOf_cons (b : Byte) (bytes : List Byte) : levelsOf (b :: bytes) = linkLevels (linkCharacter b) ++ levelsOf bytes := rfl

theorem length_levelsOf (bytes : List Byte) : (levelsOf bytes).length = 10 * bytes.length := by
  induction bytes with
  | nil => rfl
  | cons b rest ih => rw [levelsOf_cons, List.length_append, length_linkLevels, ih, List.length_cons]; omega

/-- The levels of byte `n` stand `10 * n` bit times on. -/
theorem levelsOf_getElem? {bytes : List Byte} {n : Nat} {b : Byte} (hb : bytes[n]? = some b) {k : Nat} (hk : k < 10) :
    (levelsOf bytes)[10 * n + k]? = (linkLevels (linkCharacter b))[k]? := by
  induction bytes generalizing n with
  | nil => exact nomatch hb
  | cons c rest ih =>
    rw [levelsOf_cons]
    cases n with
    | zero =>
      cases hb
      rw [Nat.mul_zero, Nat.zero_add, List.getElem?_append_left (by rw [length_linkLevels]; exact hk)]
    | succ m =>
      rw [List.getElem?_append_right (by rw [length_linkLevels]; omega), length_linkLevels, ← ih hb]
      congr 1
      omega

theorem txdLevel_eq (s : State) (t : Nat) : txdLevel s t = (levelsOf s.link.sentBytes).getD t true := rfl

theorem txdLevel_of_byte {s : State} {n : Nat} {b : Byte} (hb : s.link.sentBytes[n]? = some b) {k : Nat} (hk : k < 10) :
    (linkLevels (linkCharacter b))[k]? = some (txdLevel s (10 * n + k)) := by
  have hlt : k < (linkLevels (linkCharacter b)).length := by rw [length_linkLevels]; exact hk
  rw [txdLevel_eq, List.getD_eq_getElem?_getD, levelsOf_getElem? hb hk, List.getElem?_eq_getElem hlt]
  rfl

theorem txdLevel_rests {s : State} {t : Nat} (h : 10 * s.link.sentBytes.length ≤ t) : txdLevel s t = true := by
  rw [txdLevel_eq, List.getD_eq_getElem?_getD, List.getElem?_eq_none (by rw [length_levelsOf]; exact h)]
  rfl

/-- Settles O14. -/
theorem wireBytesAreFrames : Obligations.WireBytesAreFrames := by
  unfold Obligations.WireBytesAreFrames
  refine ⟨fun s hs => ⟨fun op tag e params => exec_leadByte_request hs op tag e, fun tag body hb _ => exec_leadByte_badOpRequest hs tag hb,
      fun kind tag body => exec_leadByte_frameCommand hs kind tag, fun kind tag lo hi body => exec_leadByte_badCrc hs kind tag lo hi,
      exec_leadByte_oversize hs⟩,
    fun s bytes hs h => exec_leadByte_unfinished hs h, fun s t a b => exec_leadByte_append b,
    fun s b c => ⟨fun hs => exec_leadByte_hunting hs, fun h => exec_leadByte_framingError h s⟩,
    fun b => ⟨linkLevels_linkCharacter b, characterValue_linkCharacter b⟩, fun s f kind crc hf hcrc => ?_,
    fun s => ⟨sentBytes_of_none, fun n b k hb => txdLevel_of_byte hb, fun k => txdLevel_rests⟩⟩
  subst hcrc
  rw [sentBytes_of_frame hf, wireBytes_eq]
  simp [coveredBytes]

end Sys2Proof.Machine
end

section
/-! The layouts of slot records and zone records (R187, R188). -/

namespace Sys2Proof.Machine

/-! ### Fields of a record made of parts -/

/-- A field behind the first part of a record. -/
theorem fieldAt_append {a b : List Byte} {n : Nat} (h : a.length = n) (k size : Nat) : fieldAt (a ++ b) (n + k) size = fieldAt b k size := by
  subst h
  unfold fieldAt
  rw [List.drop_append, List.drop_eq_nil_of_le (Nat.le_add_right _ _), List.nil_append, Nat.add_sub_cancel_left]

/-- A field behind the first part of what stands from a place on. -/
theorem fieldAt_behind {r a b : List Byte} {m n : Nat} (hr : ∀ k size, fieldAt r (m + k) size = fieldAt (a ++ b) k size)
    (ha : a.length = n) (k size : Nat) : fieldAt r (m + n + k) size = fieldAt b k size := by
  rw [Nat.add_assoc, hr, fieldAt_append ha]

/-- A one-byte field is the byte at its place. -/
theorem fieldAt_getElem {r : List Byte} {a : Nat} {b : Byte} (h : r[a]? = some b) : fieldAt r a 1 = b.toNat := by
  obtain ⟨hlt, hget⟩ := List.getElem?_eq_some_iff.mp h
  exact fieldAt_byte ((List.drop_eq_getElem_cons hlt).trans (congrArg (· :: _) hget))

theorem toNat_byte_val {n : Nat} (i : Fin n) (hn : n ≤ 256) : (byte i.val).toNat = i.val := by
  rw [toNat_byte]
  exact Nat.mod_eq_of_lt (Nat.lt_of_lt_of_le i.isLt hn)

/-! ### Slot records -/

/-- The reading in a slot record. -/
def readingBytes : Option Reading → List Byte
  | some rd => bytesSigned rd.temp ++ bytes16 (rd.rh.getD 0) ++ bytesTime rd.stamp
  | none => [0, 0, 0, 0, 0, 0, 0, 0]

theorem length_readingBytes (r : Option Reading) : (readingBytes r).length = 8 := by cases r <;> rfl

/-- The part of a slot record before the reading. -/
def slotFront (i : SlotId) (r : Slot) : List Byte :=
  [byte i.val, r.state.code, byte r.line.val, byte r.address, r.kind.code, r.cls.code, r.rule.code]
    ++ bytesSigned r.tempOffset ++ bytesSigned r.rhOffset
    ++ [byte r.misses, r.lastOutcome.code] ++ bytesTime r.nextDue ++ bytesTime r.lastPoll
    ++ [byte (flagBits [r.reading.isSome, r.armed.isSome, r.armed == some .forced, r.deferred, r.heatEnd.isSome]), byte r.run]

theorem slotRecord_some {s : State} {i : SlotId} {r : Slot} (h : s.slot i = some r) :
    slotRecord s i = slotFront i r ++ (readingBytes r.reading ++ bytesTime (r.heatEnd.getD 0)) := by
  unfold slotRecord
  rw [h]
  rfl

theorem slotRecord_none {s : State} {i : SlotId} (h : s.slot i = none) : slotRecord s i = [byte i.val, 0] := by
  unfold slotRecord
  rw [h]

/-- The layout of the fields before the reading, whatever follows them. -/
theorem slotFront_layout (i : SlotId) (r : Slot) (rest : List Byte) :
    let at' := fieldAt (slotFront i r ++ rest)
    at' 0 1 = i.val ∧ at' 1 1 = r.state.code.toNat ∧ at' 2 1 = r.line.val ∧ at' 3 1 = r.address % 256
      ∧ at' 4 1 = r.kind.code.toNat ∧ at' 5 1 = r.cls.code.toNat ∧ at' 6 1 = r.rule.code.toNat
      ∧ at' 7 2 = signedField r.tempOffset ∧ at' 9 2 = signedField r.rhOffset
      ∧ at' 11 1 = r.misses % 256 ∧ at' 12 1 = r.lastOutcome.code.toNat
      ∧ at' 13 4 = r.nextDue.toNat ∧ at' 17 4 = r.lastPoll.toNat
      ∧ (∀ k, (at' 21 1).testBit k
          = [r.reading.isSome, r.armed.isSome, r.armed == some .forced, r.deferred, r.heatEnd.isSome].getD k false)
      ∧ at' 22 1 = r.run % 256 :=
  ⟨(fieldAt_byte rfl).trans (toNat_byte_val i (by decide)), fieldAt_byte rfl, (fieldAt_byte rfl).trans (toNat_byte_val r.line (by decide)),
    (fieldAt_byte rfl).trans (toNat_byte _), fieldAt_byte rfl, fieldAt_byte rfl, fieldAt_byte rfl, fieldAt_signed rfl, fieldAt_signed rfl,
    (fieldAt_byte rfl).trans (toNat_byte _), fieldAt_byte rfl, fieldAt_time rfl, fieldAt_time rfl,
    fun k => fieldAt_flags (Nat.le_of_ble_eq_true rfl) rfl k, (fieldAt_byte rfl).trans (toNat_byte _)⟩

theorem length_slotFront (i : SlotId) (r : Slot) : (slotFront i r).length = 23 := rfl

/-- The layout of the reading, whatever follows it. -/
theorem readingBytes_layout (o : Option Reading) (rest : List Byte) :
    let at' := fieldAt (readingBytes o ++ rest)
    (∀ rd, o = some rd → at' 0 2 = signedField rd.temp ∧ at' 2 2 = rd.rh.getD 0 % 65536 ∧ at' 4 4 = rd.stamp.toNat)
      ∧ (o = none → at' 0 2 = 0 ∧ at' 2 2 = 0 ∧ at' 4 4 = 0) := by
  constructor
  · rintro rd rfl
    exact ⟨fieldAt_signed rfl, fieldAt_number rfl, fieldAt_time rfl⟩
  · rintro rfl
    exact ⟨rfl, rfl, rfl⟩

theorem slotRecord_layout {s : State} {i : SlotId} {r : Slot} (h : s.slot i = some r) :
    let at' := fieldAt (slotRecord s i)
    (slotRecord s i).length = 35
      ∧ at' 0 1 = i.val ∧ at' 1 1 = r.state.code.toNat ∧ at' 2 1 = r.line.val ∧ at' 3 1 = r.address % 256
      ∧ at' 4 1 = r.kind.code.toNat ∧ at' 5 1 = r.cls.code.toNat ∧ at' 6 1 = r.rule.code.toNat
      ∧ at' 7 2 = signedField r.tempOffset ∧ at' 9 2 = signedField r.rhOffset
      ∧ at' 11 1 = r.misses % 256 ∧ at' 12 1 = r.lastOutcome.code.toNat
      ∧ at' 13 4 = r.nextDue.toNat ∧ at' 17 4 = r.lastPoll.toNat
      ∧ (∀ k, (at' 21 1).testBit k
          = [r.reading.isSome, r.armed.isSome, r.armed == some .forced, r.deferred, r.heatEnd.isSome].getD k false)
      ∧ at' 22 1 = r.run % 256
      ∧ (∀ rd, r.reading = some rd → at' 23 2 = signedField rd.temp ∧ at' 25 2 = rd.rh.getD 0 % 65536
          ∧ at' 27 4 = rd.stamp.toNat)
      ∧ (r.reading = none → at' 23 2 = 0 ∧ at' 25 2 = 0 ∧ at' 27 4 = 0)
      ∧ at' 31 4 = (r.heatEnd.getD 0).toNat := by
  rw [slotRecord_some h]
  intro at'
  obtain ⟨h0, h1, h2, h3, h4, h5, h6, h7, h9, h11, h12, h13, h17, h21, h22⟩ :=
    slotFront_layout i r (readingBytes r.reading ++ bytesTime (r.heatEnd.getD 0))
  obtain ⟨hsome, hnone⟩ := readingBytes_layout r.reading (bytesTime (r.heatEnd.getD 0))
  have hback : ∀ k size, at' (23 + k) size = fieldAt (readingBytes r.reading ++ bytesTime (r.heatEnd.getD 0)) k size :=
    fieldAt_append (length_slotFront i r)
  have hlast : at' 31 4 = fieldAt (bytesTime (r.heatEnd.getD 0)) 0 4 :=
    (hback 8 4).trans (fieldAt_append (length_readingBytes r.reading) 0 4)
  refine ⟨?_, h0, h1, h2, h3, h4, h5, h6, h7, h9, h11, h12, h13, h17, h21, h22, fun rd hrd => ?_, fun hrd => ?_, ?_⟩
  · rw [List.length_append, List.length_append, length_slotFront, length_readingBytes]
    rfl
  · obtain ⟨ht, hh, hs⟩ := hsome rd hrd
    exact ⟨(hback 0 2).trans ht, (hback 2 2).trans hh, (hback 4 4).trans hs⟩
  · obtain ⟨ht, hh, hs⟩ := hnone hrd
    exact ⟨(hback 0 2).trans ht, (hback 2 2).trans hh, (hback 4 4).trans hs⟩
  · exact hlast.trans (fieldAt_time (List.append_nil _).symm)

/-! ### Slot lists in a zone record -/

theorem length_slotList {places : Nat} {l : List SlotId} (h : l.length ≤ places) : (slotList places l).length = places := by
  unfold slotList
  rw [List.length_append, List.length_map, List.length_replicate]
  omega

theorem slotList_getElem?_member {places : Nat} {l : List SlotId} {k : Nat} (hk : k < l.length) :
    (slotList places l)[k]? = some (byte (l[k]).val) := by
  unfold slotList
  rw [List.getElem?_append_left (by rw [List.length_map]; exact hk), List.getElem?_map, List.getElem?_eq_getElem hk]
  rfl

theorem slotList_getElem?_unused {places : Nat} {l : List SlotId} {k : Nat} (hl : l.length ≤ k) (hk : k < places) :
    (slotList places l)[k]? = some 0xFF := by
  unfold slotList
  rw [List.getElem?_append_right (by rw [List.length_map]; exact hl), List.length_map, List.getElem?_replicate, if_pos (by omega)]

/-- A place of a slot list holds the slot of its number, or 255. -/
theorem fieldAt_slotList {places : Nat} {l : List SlotId} (h : l.length ≤ places) (rest : List Byte) {k : Nat} (hk : k < places) :
    fieldAt (slotList places l ++ rest) k 1 = (l[k]?.map Fin.val).getD 255 := by
  have hin : (slotList places l ++ rest)[k]? = (slotList places l)[k]? :=
    List.getElem?_append_left (by rw [length_slotList h]; exact hk)
  by_cases hlt : k < l.length
  · rw [List.getElem?_eq_getElem hlt]
    exact (fieldAt_getElem (hin.trans (slotList_getElem?_member hlt))).trans (toNat_byte_val _ (by decide))
  · have hle := Nat.le_of_not_lt hlt
    rw [List.getElem?_eq_none_iff.mpr hle]
    exact fieldAt_getElem (hin.trans (slotList_getElem?_unused hle hk))

/-! ### Zone records -/

/-- The part of a zone record before the air list. -/
def zoneFront (z : ZoneId) (r : Zone) : List Byte :=
  [byte z.val, r.state.code] ++ bytes16 r.defn.watch ++ bytes16 r.defn.alert
    ++ [byte r.defn.hyst, byte r.defn.nin, byte r.defn.nout] ++ [byte r.defn.air.length]

/-- The part of a zone record behind the surface list and before the values. -/
def zoneMiddle (r : Zone) : List Byte :=
  [byte r.riseCount, levelByte r.floor, byte r.fallCount, levelByte r.ceiling]
    ++ [byte (flagBits [r.latest.isSome, (r.latest.bind Latest.values).isSome, (r.latest.map Latest.rangeMark).getD false,
          r.expiry.isSome, r.dueMark])]
    ++ bytesTime ((r.latest.map Latest.stamp).getD 0) ++ [(r.latest.map fun l => l.bank.code).getD 0xFF]

/-- The values and the expiry of a zone record. -/
def zoneBack (r : Zone) : List Byte := valuesBytes (r.latest.bind Latest.values) ++ bytesTime (r.expiry.getD 0)

theorem zoneRecord_some {s : State} {z : ZoneId} {r : Zone} (h : s.zone z = some r) :
    zoneRecord s z = zoneFront z r ++ (slotList 6 r.defn.air ++ (byte r.defn.surface.length :: (slotList 8 r.defn.surface
      ++ (zoneMiddle r ++ zoneBack r)))) := by
  unfold zoneRecord
  rw [h]
  simp only [zoneFront, zoneMiddle, zoneBack, List.append_assoc, List.cons_append, List.nil_append]

theorem zoneRecord_none {s : State} {z : ZoneId} (h : s.zone z = none) : zoneRecord s z = [byte z.val, 0] := by
  unfold zoneRecord
  rw [h]

theorem toNat_levelByte (o : Option Level) : (levelByte o).toNat = (o.map fun l => l.code.toNat).getD 255 := by cases o <;> rfl

theorem length_valuesBytes (o : Option Values) : (valuesBytes o).length = 8 := by cases o <;> rfl

/-- The layout of the values of an evaluation, whatever follows them. -/
theorem valuesBytes_layout (o : Option Values) (rest : List Byte) :
    let at' := fieldAt (valuesBytes o ++ rest)
    (∀ v, o = some v → at' 0 2 = signedField v.dewPoint ∧ at' 2 2 = signedField v.coldest ∧ at' 4 2 = signedField v.margin
        ∧ at' 6 1 = v.airSlot.val ∧ at' 7 1 = v.surfaceSlot.val)
      ∧ (o = none → at' 0 2 = 0 ∧ at' 2 2 = 0 ∧ at' 4 2 = 0 ∧ at' 6 1 = 255 ∧ at' 7 1 = 255) := by
  constructor
  · rintro v rfl
    exact ⟨fieldAt_signed rfl, fieldAt_signed rfl, fieldAt_signed rfl, (fieldAt_byte rfl).trans (toNat_byte_val _ (by decide)),
      (fieldAt_byte rfl).trans (toNat_byte_val _ (by decide))⟩
  · rintro rfl
    exact ⟨rfl, rfl, rfl, rfl, rfl⟩

theorem zoneMiddle_layout (r : Zone) (rest : List Byte) :
    let at' := fieldAt (zoneMiddle r ++ rest)
    at' 0 1 = r.riseCount % 256 ∧ at' 1 1 = (r.floor.map fun l => l.code.toNat).getD 255
      ∧ at' 2 1 = r.fallCount % 256 ∧ at' 3 1 = (r.ceiling.map fun l => l.code.toNat).getD 255
      ∧ (∀ k, (at' 4 1).testBit k
          = [r.latest.isSome, (r.latest.bind Latest.values).isSome, (r.latest.map Latest.rangeMark).getD false,
              r.expiry.isSome, r.dueMark].getD k false)
      ∧ at' 5 4 = ((r.latest.map Latest.stamp).getD 0).toNat
      ∧ at' 9 1 = ((r.latest.map fun l : Latest => l.bank.code).getD 0xFF).toNat :=
  ⟨(fieldAt_byte rfl).trans (toNat_byte _), (fieldAt_byte rfl).trans (toNat_levelByte _), (fieldAt_byte rfl).trans (toNat_byte _),
    (fieldAt_byte rfl).trans (toNat_levelByte _), fun k => fieldAt_flags (Nat.le_of_ble_eq_true rfl) rfl k, fieldAt_time rfl,
    fieldAt_byte rfl⟩

theorem zoneFront_layout (z : ZoneId) (r : Zone) (rest : List Byte) :
    let at' := fieldAt (zoneFront z r ++ rest)
    at' 0 1 = z.val ∧ at' 1 1 = r.state.code.toNat
      ∧ at' 2 2 = r.defn.watch % 65536 ∧ at' 4 2 = r.defn.alert % 65536 ∧ at' 6 1 = r.defn.hyst % 256
      ∧ at' 7 1 = r.defn.nin % 256 ∧ at' 8 1 = r.defn.nout % 256 ∧ at' 9 1 = r.defn.air.length % 256 :=
  ⟨(fieldAt_byte rfl).trans (toNat_byte_val z (by decide)), fieldAt_byte rfl, fieldAt_number rfl, fieldAt_number rfl,
    (fieldAt_byte rfl).trans (toNat_byte _), (fieldAt_byte rfl).trans (toNat_byte _), (fieldAt_byte rfl).trans (toNat_byte _),
    (fieldAt_byte rfl).trans (toNat_byte _)⟩

theorem zoneRecord_layout {s : State} {z : ZoneId} {r : Zone} (h : s.zone z = some r) (hair : r.defn.air.length ≤ 6)
    (hsurface : r.defn.surface.length ≤ 8) :
    let at' := fieldAt (zoneRecord s z)
    (zoneRecord s z).length = 47
      ∧ at' 0 1 = z.val ∧ at' 1 1 = r.state.code.toNat
      ∧ at' 2 2 = r.defn.watch % 65536 ∧ at' 4 2 = r.defn.alert % 65536 ∧ at' 6 1 = r.defn.hyst % 256
      ∧ at' 7 1 = r.defn.nin % 256 ∧ at' 8 1 = r.defn.nout % 256
      ∧ at' 9 1 = r.defn.air.length ∧ (∀ k < 6, at' (10 + k) 1 = (r.defn.air[k]?.map Fin.val).getD 255)
      ∧ at' 16 1 = r.defn.surface.length ∧ (∀ k < 8, at' (17 + k) 1 = (r.defn.surface[k]?.map Fin.val).getD 255)
      ∧ at' 25 1 = r.riseCount % 256 ∧ at' 26 1 = (r.floor.map fun l => l.code.toNat).getD 255
      ∧ at' 27 1 = r.fallCount % 256 ∧ at' 28 1 = (r.ceiling.map fun l => l.code.toNat).getD 255
      ∧ (∀ k, (at' 29 1).testBit k
          = [r.latest.isSome, (r.latest.bind Latest.values).isSome, (r.latest.map Latest.rangeMark).getD false,
              r.expiry.isSome, r.dueMark].getD k false)
      ∧ (∀ l, r.latest = some l → at' 30 4 = l.stamp.toNat ∧ at' 34 1 = l.bank.code.toNat)
      ∧ (r.latest = none → at' 30 4 = 0 ∧ at' 34 1 = 255)
      ∧ (∀ v, r.latest.bind Latest.values = some v → at' 35 2 = signedField v.dewPoint
          ∧ at' 37 2 = signedField v.coldest ∧ at' 39 2 = signedField v.margin
          ∧ at' 41 1 = v.airSlot.val ∧ at' 42 1 = v.surfaceSlot.val)
      ∧ (r.latest.bind Latest.values = none →
          at' 35 2 = 0 ∧ at' 37 2 = 0 ∧ at' 39 2 = 0 ∧ at' 41 1 = 255 ∧ at' 42 1 = 255)
      ∧ at' 43 4 = (r.expiry.getD 0).toNat := by
  rw [zoneRecord_some h]
  intro at'
  obtain ⟨h0, h1, h2, h4, h6, h7, h8, h9⟩ := zoneFront_layout z r (slotList 6 r.defn.air ++ (byte r.defn.surface.length ::
    (slotList 8 r.defn.surface ++ (zoneMiddle r ++ zoneBack r))))
  have hlists : ∀ k size, at' (10 + k) size = fieldAt (slotList 6 r.defn.air ++ (byte r.defn.surface.length ::
      (slotList 8 r.defn.surface ++ (zoneMiddle r ++ zoneBack r)))) k size := fieldAt_append rfl
  have hcount : ∀ k size, at' (16 + k) size = fieldAt ([byte r.defn.surface.length] ++ (slotList 8 r.defn.surface
      ++ (zoneMiddle r ++ zoneBack r))) k size := fieldAt_behind hlists (length_slotList hair)
  have hsurf : ∀ k size, at' (17 + k) size = fieldAt (slotList 8 r.defn.surface ++ (zoneMiddle r ++ zoneBack r)) k size :=
    fieldAt_behind hcount rfl
  have hmiddle : ∀ k size, at' (25 + k) size = fieldAt (zoneMiddle r ++ zoneBack r) k size :=
    fieldAt_behind hsurf (length_slotList hsurface)
  have hback : ∀ k size, at' (35 + k) size = fieldAt (zoneBack r) k size := fieldAt_behind hmiddle rfl
  have hexpiry : at' 43 4 = fieldAt (bytesTime (r.expiry.getD 0)) 0 4 :=
    (hback 8 4).trans (fieldAt_append (length_valuesBytes _) 0 4)
  obtain ⟨m0, m1, m2, m3, m4, m5, m9⟩ := zoneMiddle_layout r (zoneBack r)
  obtain ⟨hsome, hnone⟩ := valuesBytes_layout (r.latest.bind Latest.values) (bytesTime (r.expiry.getD 0))
  have hstamp : at' 30 4 = ((r.latest.map Latest.stamp).getD 0).toNat := (hmiddle 5 4).trans m5
  have hbank : at' 34 1 = ((r.latest.map fun l : Latest => l.bank.code).getD 0xFF).toNat := (hmiddle 9 1).trans m9
  refine ⟨?_, h0, h1, h2, h4, h6, h7, h8, h9.trans (Nat.mod_eq_of_lt (by omega)), fun k hk => ?_, ?_, fun k hk => ?_,
    (hmiddle 0 1).trans m0, (hmiddle 1 1).trans m1, (hmiddle 2 1).trans m2, (hmiddle 3 1).trans m3, fun k => ?_, fun l hl => ?_,
    fun hl => ?_, fun v hv => ?_, fun hv => ?_, ?_⟩
  · simp only [List.length_append, List.length_cons, length_slotList hair, length_slotList hsurface, zoneBack, length_valuesBytes]
    rfl
  · exact (hlists k 1).trans (fieldAt_slotList hair _ hk)
  · exact (hcount 0 1).trans ((fieldAt_byte rfl).trans ((toNat_byte _).trans (Nat.mod_eq_of_lt (by omega))))
  · exact (hsurf k 1).trans (fieldAt_slotList hsurface _ hk)
  · rw [← m4 k]
    exact congrArg (Nat.testBit · k) (hmiddle 4 1)
  · rw [hstamp, hbank, hl]
    exact ⟨rfl, rfl⟩
  · rw [hstamp, hbank, hl]
    exact ⟨rfl, rfl⟩
  · obtain ⟨v0, v2, v4, v6, v7⟩ := hsome v hv
    exact ⟨(hback 0 2).trans v0, (hback 2 2).trans v2, (hback 4 2).trans v4, (hback 6 1).trans v6, (hback 7 1).trans v7⟩
  · obtain ⟨v0, v2, v4, v6, v7⟩ := hnone hv
    exact ⟨(hback 0 2).trans v0, (hback 2 2).trans v2, (hback 4 2).trans v4, (hback 6 1).trans v6, (hback 7 1).trans v7⟩
  · exact hexpiry.trans (fieldAt_time (List.append_nil _).symm)

end Sys2Proof.Machine
end

section
/-! The layouts of table entry, notice and status records (R189 to R191). -/

namespace Sys2Proof.Machine

/-! ### Table entry records -/

theorem entryRecord_layout (k : Nat) (x : Entry) : (entryRecord k x).length = 5 ∧ fieldAt (entryRecord k x) 0 1 = k % 256
    ∧ fieldAt (entryRecord k x) 1 2 = signedField x.temp ∧ fieldAt (entryRecord k x) 3 2 = x.pressure % 65536 :=
  ⟨rfl, (fieldAt_byte rfl).trans (toNat_byte k), fieldAt_signed rfl, fieldAt_number (List.append_nil _).symm⟩

/-! ### Notice records -/

/-- A notice's kind, size and stamp stand before its body. -/
theorem record_eq (n : Notice) :
    n.record = [n.body.kindCode, byte (6 + n.body.bytes.length)] ++ bytesTime n.stamp ++ n.body.bytes := rfl

theorem drop_record (n : Notice) : n.record.drop 6 = n.body.bytes := rfl

theorem length_record (n : Notice) : n.record.length = 6 + n.body.bytes.length := by
  rw [record_eq, List.length_append]
  rfl

theorem length_noticeBytes_le (b : NoticeBody) : b.bytes.length ≤ 11 := by
  cases b with
  | zoneState z old new values => cases values <;> simp [NoticeBody.bytes, length_valuesBytes]
  | probeState | lineState | heatDeferred | tableSwap => simp [NoticeBody.bytes]

theorem record_size (n : Notice) : fieldAt n.record 1 1 = n.record.length := by
  have hle := length_noticeBytes_le n.body
  rw [length_record]
  exact (fieldAt_byte rfl).trans ((toNat_byte _).trans (Nat.mod_eq_of_lt (by omega)))

theorem record_stamp (n : Notice) : fieldAt n.record 2 4 = n.stamp.toNat := fieldAt_time rfl

/-- What the body of a notice makes of its record. -/
theorem record_of_body {n : Notice} {bytes : List Byte} {kind : Byte} (hbytes : n.body.bytes = bytes) (hkind : n.body.kindCode = kind) :
    n.record.length = 6 + bytes.length ∧ n.record.head? = some kind ∧ n.record.drop 6 = bytes := by
  subst hbytes hkind
  exact ⟨length_record n, rfl, rfl⟩

theorem record_zoneState {n : Notice} {z : ZoneId} {old new : ZoneState} {v : Values} (h : n.body = .zoneState z old new (some v)) :
    n.record.length = 17 ∧ n.record.head? = some 1 ∧ (n.record.drop 6).take 3 = [byte z.val, old.code, new.code]
      ∧ fieldAt n.record 9 2 = signedField v.dewPoint ∧ fieldAt n.record 11 2 = signedField v.coldest
      ∧ fieldAt n.record 13 2 = signedField v.margin ∧ n.record.drop 15 = [byte v.airSlot.val, byte v.surfaceSlot.val] := by
  obtain ⟨stamp, body⟩ := n
  subst h
  exact ⟨rfl, rfl, rfl, fieldAt_signed rfl, fieldAt_signed rfl, fieldAt_signed rfl, rfl⟩

theorem record_layout (n : Notice) : fieldAt n.record 1 1 = n.record.length ∧ fieldAt n.record 2 4 = n.stamp.toNat
    ∧ (∀ z old new, (n.body = .zoneState z old new none →
          n.record.length = 9 ∧ n.record.head? = some 1 ∧ n.record.drop 6 = [byte z.val, old.code, new.code])
        ∧ ∀ v, n.body = .zoneState z old new (some v) →
          n.record.length = 17 ∧ n.record.head? = some 1 ∧ (n.record.drop 6).take 3 = [byte z.val, old.code, new.code]
            ∧ fieldAt n.record 9 2 = signedField v.dewPoint ∧ fieldAt n.record 11 2 = signedField v.coldest
            ∧ fieldAt n.record 13 2 = signedField v.margin ∧ n.record.drop 15 = [byte v.airSlot.val, byte v.surfaceSlot.val])
    ∧ (∀ i old new last, n.body = .probeState i old new last →
        n.record.length = 10 ∧ n.record.head? = some 2 ∧ n.record.drop 6 = [byte i.val, old.code, new.code, last.code])
    ∧ (∀ l old new, n.body = .lineState l old new →
        n.record.length = 9 ∧ n.record.head? = some 3 ∧ n.record.drop 6 = [byte l.val, old.code, new.code])
    ∧ (∀ i z, n.body = .heatDeferred i z →
        n.record.length = 8 ∧ n.record.head? = some 4 ∧ n.record.drop 6 = [byte i.val, byte z.val])
    ∧ (∀ new old, n.body = .tableSwap new old →
        n.record.length = 8 ∧ n.record.head? = some 5 ∧ n.record.drop 6 = [new.code, old.code]) := by
  refine ⟨record_size n, record_stamp n, fun z old new => ⟨fun h => ?_, fun v h => record_zoneState h⟩, fun i old new last h => ?_,
    fun l old new h => ?_, fun i z h => ?_, fun new old h => ?_⟩
  all_goals exact record_of_body (congrArg NoticeBody.bytes h) (congrArg NoticeBody.kindCode h)

/-! ### Status records -/

theorem generalRecord_layout (s : State) : (generalRecord s).length = 12 ∧ (generalRecord s).head? = some 1
    ∧ fieldAt (generalRecord s) 1 4 = s.timeBase.toNat
    ∧ (generalRecord s).drop 5 = [s.tables.activeBank.code, s.tables.rom.code, s.tables.a.state.code, s.tables.b.state.code]
        ++ match s.tables.cursor with
          | some c => [c.bank.code, byte c.entry, c.position.code]
          | none => [0xFF, 0xFF, 0xFF] := by
  refine ⟨length_generalRecord s, rfl, fieldAt_time rfl, ?_⟩
  unfold generalRecord
  cases s.tables.cursor <;> rfl

/-- What a line status record says of one line. -/
def lineBytes (s : State) (l : LineId) : List Byte :=
  [(s.line l).state.name.code, (s.line l).rate.code, (s.line l).order.code, byte (s.line l).replyTimeout]
    ++ bytes16 (s.line l).faultTime

theorem lineRecord_drop (s : State) (l : LineId) : ∃ rest, (lineRecord s).drop (1 + 6 * l.val) = lineBytes s l ++ rest := by
  match l with
  | 0 | 1 | 2 | 3 => exact ⟨_, rfl⟩

theorem lineRecord_line (s : State) (l : LineId) :
    ((lineRecord s).drop (1 + 6 * l.val)).take 3 = [(s.line l).state.name.code, (s.line l).rate.code, (s.line l).order.code]
      ∧ fieldAt (lineRecord s) (4 + 6 * l.val) 1 = (s.line l).replyTimeout % 256
      ∧ fieldAt (lineRecord s) (5 + 6 * l.val) 2 = (s.line l).faultTime % 65536 := by
  obtain ⟨rest, hrest⟩ := lineRecord_drop s l
  have hdrop : ∀ k, (lineRecord s).drop (1 + k + 6 * l.val) = (lineBytes s l ++ rest).drop k := fun k => by
    rw [← hrest, List.drop_drop, Nat.add_right_comm]
  exact ⟨by rw [hrest]; rfl, (fieldAt_byte (hdrop 3)).trans (toNat_byte _), fieldAt_number (hdrop 4)⟩

theorem lineRecord_layout (s : State) : (lineRecord s).length = 25 ∧ (lineRecord s).head? = some 2 ∧ ∀ l : LineId,
    ((lineRecord s).drop (1 + 6 * l.val)).take 3 = [(s.line l).state.name.code, (s.line l).rate.code, (s.line l).order.code]
      ∧ fieldAt (lineRecord s) (4 + 6 * l.val) 1 = (s.line l).replyTimeout % 256
      ∧ fieldAt (lineRecord s) (5 + 6 * l.val) 2 = (s.line l).faultTime % 65536 :=
  ⟨length_lineRecord s, rfl, lineRecord_line s⟩

/-- The count of a population record of those whose code is `k`. -/
theorem toNat_population {α : Type} (l : List α) (hl : l.length < 256) (code : α → Byte) {k : Nat} (hk : k < 6) :
    (byte (l.countP fun x => code x == byte k)).toNat = l.countP fun x => (code x).toNat = k := by
  have hcount : l.countP (fun x => code x == byte k) = l.countP fun x => (code x).toNat = k := by
    refine List.countP_congr fun x _ => ?_
    rw [beq_iff_eq, decide_eq_true_eq, ← BitVec.toNat_inj, toNat_byte, Nat.mod_eq_of_lt (by omega)]
  have hle : l.countP (fun x => code x == byte k) ≤ l.length := List.countP_le_length
  rw [toNat_byte, Nat.mod_eq_of_lt (by omega), hcount]

theorem populationRecord_layout (s : State) : (populationRecord s).length = 13 ∧ (populationRecord s).head? = some 3 ∧ ∀ k < 6,
    fieldAt (populationRecord s) (1 + k) 1 = allZones.countP (fun z => (zoneStateCode s z).toNat = k)
      ∧ fieldAt (populationRecord s) (7 + k) 1 = allSlots.countP (fun i => (slotStateCode s i).toNat = k) := by
  refine ⟨length_populationRecord s, rfl, fun k hk => ⟨?_, ?_⟩⟩
  · rw [← toNat_population allZones (by decide) (zoneStateCode s) hk]
    refine fieldAt_getElem ?_
    match k, hk with
    | 0, _ | 1, _ | 2, _ | 3, _ | 4, _ | 5, _ => rfl
  · rw [← toNat_population allSlots (by decide) (slotStateCode s) hk]
    refine fieldAt_getElem ?_
    match k, hk with
    | 0, _ | 1, _ | 2, _ | 3, _ | 4, _ | 5, _ => rfl

/-! ### State codes -/

theorem zoneStateCode_eq (s : State) (z : ZoneId) : zoneStateCode s z = ((s.zone z).map fun r => r.state.code).getD 0 := by
  unfold zoneStateCode
  cases s.zone z <;> rfl

theorem slotStateCode_eq (s : State) (i : SlotId) : slotStateCode s i = ((s.slot i).map fun r => r.state.code).getD 0 := by
  unfold slotStateCode
  cases s.slot i <;> rfl

end Sys2Proof.Machine
end

section
/-! The codes of the named values in records and requests (R184, R185), and the layouts of all records together. -/

namespace Sys2Proof.Machine

/-! ### The codes that requests carry -/

theorem kindOfCode_code (k : Kind) : kindOfCode k.code = some k := by cases k <;> rfl
theorem classOfCode_code (c : ResClass) : classOfCode c.code = some c := by cases c <;> rfl
theorem wideningOfCode_code (w : Widening) : wideningOfCode w.code = some w := by cases w <;> rfl
theorem rateOfCode_code (r : Rate) : rateOfCode r.code = some r := by cases r <;> rfl
theorem orderOfCode_code (o : BitOrder) : orderOfCode o.code = some o := by cases o <;> rfl
theorem bankOfCode_code (k : BankId) : bankOfCode k.code = some k := by cases k <;> rfl
theorem policyOfCode_code (p : QueuePolicy) : policyOfCode p.code = some p := by cases p <;> rfl

theorem kindOfCode_eq_none {b : Byte} : kindOfCode b = none ↔ 1 < b.toNat := by
  unfold kindOfCode
  split
  all_goals simp_all
  omega

theorem classOfCode_eq_none {b : Byte} : classOfCode b = none ↔ 2 < b.toNat := by
  unfold classOfCode
  split
  all_goals simp_all
  omega

theorem wideningOfCode_eq_none {b : Byte} : wideningOfCode b = none ↔ 3 < b.toNat := by
  unfold wideningOfCode
  split
  all_goals simp_all
  omega

theorem rateOfCode_eq_none {b : Byte} : rateOfCode b = none ↔ 4 < b.toNat := by
  unfold rateOfCode
  split
  all_goals simp_all
  omega

theorem orderOfCode_eq_none {b : Byte} : orderOfCode b = none ↔ 1 < b.toNat := by
  unfold orderOfCode
  split
  all_goals simp_all
  omega

theorem alertModeOfCode_eq_none {b : Byte} : alertModeOfCode b = none ↔ 1 < b.toNat := by
  unfold alertModeOfCode
  split
  all_goals simp_all
  omega

theorem paramOfCode_eq_none {b : Byte} : paramOfCode b = none ↔ b.toNat = 0 ∨ 13 < b.toNat := by
  unfold paramOfCode
  split
  all_goals simp_all
  omega

theorem policyOfCode_eq_none {v : Nat} : policyOfCode v = none ↔ 1 < v := by
  unfold policyOfCode
  split
  all_goals simp_all
  omega

/-- A byte is an operation's exactly if it is its code. -/
theorem ofCode_eq_some {b : Byte} {op : Op} : Op.ofCode b = some op ↔ b = op.code := by
  constructor
  · intro h
    exact (beq_iff_eq.mp (List.find?_some (p := fun o : Op => o.code == b) h)).symm
  · rintro rfl
    exact ofCode_code op

/-- Settles O10. -/
theorem recordsHaveTheirLayouts : Obligations.RecordsHaveTheirLayouts := by
  unfold Obligations.RecordsHaveTheirLayouts
  refine ⟨fun s i => ⟨slotRecord_none, fun r => slotRecord_layout⟩, fun s z => ⟨zoneRecord_none, fun r => zoneRecord_layout⟩,
    entryRecord_layout, record_layout,
    fun s => ⟨generalRecord_layout s, lineRecord_layout s, populationRecord_layout s, rfl⟩,
    fun s => ⟨zoneStateCode_eq s, slotStateCode_eq s⟩, rfl, rfl, rfl, rfl, rfl, rfl, rfl, rfl, rfl,
    rfl, kindOfCode_code, fun _ => kindOfCode_eq_none, rfl, classOfCode_code, fun _ => classOfCode_eq_none,
    rfl, wideningOfCode_code, fun _ => wideningOfCode_eq_none, rfl, rateOfCode_code, fun _ => rateOfCode_eq_none,
    rfl, orderOfCode_code, fun _ => orderOfCode_eq_none, rfl, bankOfCode_code, fun _ => bankOfCode_eq_none,
    rfl, rfl, fun _ => alertModeOfCode_eq_none, rfl, fun _ => paramOfCode_eq_none,
    rfl, rfl, fun _ => policyOfCode_eq_none, policyOfCode_code, rfl, fun _ _ => ofCode_eq_some⟩

end Sys2Proof.Machine
end
